-- ==== Sys2Proof/Word.lean ====
section
/-! DEFINITION. The word types of RDTE and the content a register can have: a value, or the spec's "no value". -/

namespace Sys2Proof

/-- One frame byte (spec/00_scope.md R4, `BYTE_W` = 8). -/
abbrev Byte := BitVec 8

/-- One acceleration value (R4, `ACC_W` = 10). -/
abbrev Accel := BitVec 10

/-- One binary32 bit pattern (R4, `FP`; spec/10_state.md R47). -/
abbrev Word32 := BitVec 32

/-- One operation word `W[11:0] = C[3:0] ‖ D[7:0]` (spec/30_encoding.md R78). -/
abbrev Word12 := BitVec 12

/-- One frame word `F[47:0]` (spec/00_scope.md R8). -/
abbrev Word48 := BitVec 48

/-- What a register of the block contains: a value, or NO VALUE, which spec/10_state.md R20, R37 and R48 give
as the content of a register from `RESET` to the first operation that writes it ("not zero, not any fixed
pattern"; "A model represents it as an absent value"). It is the spec's own reset content, not a missing one. -/
inductive Held (α : Type) where
  /-- Nothing has written the register since `RESET` (R37). -/
  | noValue
  /-- The register contains `v`. -/
  | holds (v : α)
  deriving DecidableEq, Repr

namespace Held

variable {α β γ δ : Type}

/-- Compute from one register: no value in, no value out. -/
def map (f : α → β) : Held α → Held β
  | noValue => noValue
  | holds v => holds (f v)

/-- Compute from two registers: a value only if both hold one. -/
def map2 (f : α → β → γ) : Held α → Held β → Held γ
  | holds a, holds b => holds (f a b)
  | _, _ => noValue

/-- Compute from three registers: a value only if all three hold one. -/
def map3 (f : α → β → γ → δ) : Held α → Held β → Held γ → Held δ
  | holds a, holds b, holds c => holds (f a b c)
  | _, _, _ => noValue

/-- Does the register hold a value? -/
def isHeld : Held α → Bool
  | noValue => false
  | holds _ => true

end Held

end Sys2Proof
end

