-- ==== Sys2Proof/Syntax.lean ====
section
/-! DEFINITION. The operations of the block, the frame they carry, the Report a frame stands for, and the script
notation (spec/30_encoding.md R81, R83). -/

namespace Sys2Proof

/-- The six bytes of one frame, `b0` the first byte of the device read (spec/00_scope.md R8). -/
structure Frame where
  b0 : Byte
  b1 : Byte
  b2 : Byte
  b3 : Byte
  b4 : Byte
  b5 : Byte
  deriving DecidableEq, Repr

/-- The decoded value of a frame (spec/41_field_extraction.md R100); a button is `true` when pressed
(spec/00_scope.md R10). -/
structure Report where
  jx : Byte
  jy : Byte
  ax : Accel
  ay : Accel
  az : Accel
  bc : Bool
  bz : Bool
  deriving DecidableEq, Repr

/-- One constructor per row of spec/opcode_table.json. The first five are the operations a run is made of
(spec/00_scope.md R5); the other ten are the parts of `PUSH` and `EST` that R81 gives a row of their own, "not
separately requestable". An operand is what the row's rule names as its encoded operand. -/
inductive Instr where
  /-- `RESET` (spec/70_reset_and_hazards.md R180). -/
  | reset
  /-- `ABORT` (spec/40_frame_ops.md R92). -/
  | abort
  /-- `PUSH d` (R90). -/
  | push (d : Byte)
  /-- `EST` (spec/42_tilt.md R121). -/
  | est
  /-- `IDLE` (spec/40_frame_ops.md R94). -/
  | idle
  /-- `DECODE` of the frame `f` (R93). -/
  | decode (f : Frame)
  /-- `JX`, operand `b[0]` (spec/41_field_extraction.md R101). -/
  | jx (b0 : Byte)
  /-- `JY`, operand `b[1]` (R102). -/
  | jy (b1 : Byte)
  /-- `AX`, operands `b[2]`, `b[5]` (R103). -/
  | ax (b2 b5 : Byte)
  /-- `AY`, operands `b[3]`, `b[5]` (R104). -/
  | ay (b3 b5 : Byte)
  /-- `AZ`, operands `b[4]`, `b[5]` (R105). -/
  | az (b4 b5 : Byte)
  /-- `BC`, operand `b[5]` (R106). -/
  | bc (b5 : Byte)
  /-- `BZ`, operand `b[5]` (R107). -/
  | bz (b5 : Byte)
  /-- `ROLL`, operands the registers `AY`, `AX`, `AZ` (spec/42_tilt.md R122). -/
  | roll
  /-- `PITCH`, operands the registers `AX`, `AY`, `AZ` (R123). -/
  | pitch
  deriving DecidableEq, Repr

/-- What one operation word asks for (spec/30_encoding.md R79): an operation, and whether an `EST` is performed
after it. -/
structure Request where
  first : Instr
  thenEst : Bool
  deriving DecidableEq, Repr

/-- The operations of a request, in the order they are performed (R79). -/
def Request.ops (r : Request) : List Instr :=
  if r.thenEst then [r.first, .est] else [r.first]

/-- One line of a script (R83). Operands are the numbers as written; `ScriptLine.wellFormed` checks their ranges. -/
inductive ScriptLine where
  | reset
  | abort
  | est
  | idle
  | push (d : Nat)
  | frame (b0 b1 b2 b3 b4 b5 : Nat)
  | poll (b0 b1 b2 b3 b4 b5 : Nat)
  | report (jx jy ax ay az bc bz : Nat)
  deriving DecidableEq, Repr

end Sys2Proof
end

