-- ==== Sys2Proof/Machine/State.lean ====
section
/-! DEFINITION. The state of the block: every register of spec/10_state.md R20, the model's own input queue and
event trace, the state after `RESET`, and the reasons a step or a read can stop. -/

namespace Sys2Proof.Machine

/-- The frame buffer as (address, byte) pairs, addresses strictly rising and below 6 (`Memory.wf`,
Machine/Ops.lean); an address not listed holds no value (`Memory.unlisted`). -/
abbrev Memory := List Host.Cell

/-- The output events (spec/00_scope.md R13), each with the register contents it carries. -/
inductive Event where
  /-- `REPORT(jx, jy, ax, ay, az, bc, bz)`, emitted by `DECODE`. -/
  | report (jx jy : Held Byte) (ax ay az : Held Accel) (bc bz : Held Bool)
  /-- `ORIENTATION(roll, roll_inv, pitch, pitch_inv)`, emitted by a computing `EST`. -/
  | orientation (roll : Held Word32) (rollInv : Held Bool) (pitch : Held Word32) (pitchInv : Held Bool)
  deriving DecidableEq, Repr

/-- The output registers (R12): everything of R20 but `FB` and `IDX`, which are hidden (spec/10_state.md R40). -/
inductive OutReg where
  | jx | jy | ax | ay | az | bc | bz | rptValid | roll | pitch | rollInv | pitchInv | oriValid
  deriving DecidableEq, Repr

/-- The state. The first fifteen fields are the block's 167 bits (spec/10_state.md R20, "Nothing else is state");
the last three are the model's own: what the host has asked for, and what the block has emitted. -/
structure State where
  /-- `IDX` (R22): how many bytes of the current frame are accepted, `0..5`. -/
  idx : Fin 6
  /-- `FB[0..5]` (R21). -/
  fb : Memory
  /-- `JX` (R24). -/
  jx : Held Byte
  /-- `JY` (R25). -/
  jy : Held Byte
  /-- `AX` (R26). -/
  ax : Held Accel
  /-- `AY` (R27). -/
  ay : Held Accel
  /-- `AZ` (R28). -/
  az : Held Accel
  /-- `BC` (R29). -/
  bc : Held Bool
  /-- `BZ` (R30). -/
  bz : Held Bool
  /-- `RPT_VALID` (R31). -/
  rptValid : Bool
  /-- `ROLL` (R32). -/
  roll : Held Word32
  /-- `PITCH` (R33). -/
  pitch : Held Word32
  /-- `ROLL_INV` (R34). -/
  rollInv : Held Bool
  /-- `PITCH_INV` (R35). -/
  pitchInv : Held Bool
  /-- `ORI_VALID` (R36). -/
  oriValid : Bool
  /-- The model's own: operation words at the ports, oldest first (spec/00_scope.md R17: "input of a step"). -/
  port : List Word12
  /-- The model's own: the `EST` of the last word is still to be performed (spec/30_encoding.md R79). -/
  estPending : Bool
  /-- The model's own: the trace of the run, oldest event first (spec/00_scope.md R13). -/
  trace : List Event
  deriving DecidableEq, Repr

/-- The state after `RESET` (spec/10_state.md R48), with nothing asked for and nothing emitted yet. -/
def State.reset : State where
  idx := 0
  fb := []
  jx := .noValue
  jy := .noValue
  ax := .noValue
  ay := .noValue
  az := .noValue
  bc := .noValue
  bz := .noValue
  rptValid := false
  roll := .noValue
  pitch := .noValue
  rollInv := .noValue
  pitchInv := .noValue
  oriValid := false
  port := []
  estPending := false
  trace := []

/-- Faults: there are none. "The block raises no synchronous exception" (spec/60_exceptions.md R150) and has no
fault, no stuck state and no hang (R172), so the type has no constructor. Safe: nothing is claimed to fault. -/
inductive Fault where
  deriving DecidableEq, Repr

/-- Refusals. -/
inductive Refusal where
  /-- Raised by an arm of `exec` that has no meaning yet; no arm is left so. Safe: the step says nothing. -/
  | notModelled (mnemonic : String)
  /-- Raised by `State.readOutput`, the consumer's read, and by nothing else; never by `exec` or `step`. The spec
  states it: "a read of an absent value by a consumer is a refusal of the model (the claim says nothing), never a
  number" (spec/10_state.md R37; spec/00_scope.md R15; spec/60_exceptions.md R172; spec/92_eei_decisions.md D22).
  Not to be taken for `Held.noValue`, the CONTENT of a register, on which nothing stops. Safe: the read says
  nothing. -/
  | noValue (r : OutReg)
  deriving DecidableEq, Repr

end Sys2Proof.Machine
end

