-- ==== Sys2Proof/Machine/Ops.lean ====
section
/-! DEFINITION. The named operations over the frame buffer and the registers: reading and writing one byte,
advancing `IDX`, emitting an event. The block has no exception entry and no return from one
(spec/60_exceptions.md R159, R160), so none stands here. -/

namespace Sys2Proof.Machine

/-! ## The frame buffer (spec/20_memory.md R50) -/

/-- What an address that is not listed contains: no value (spec/10_state.md R37, R48). -/
def Memory.unlisted : Held Byte := .noValue

/-- The canonical form: addresses strictly rising, none outside the space `0..5` (R50). An entry is always a byte,
so no entry equals what an unlisted address contains. -/
abbrev Memory.wf (m : Memory) : Prop :=
  (m.map Prod.fst).Pairwise (· < ·) ∧ ∀ c ∈ m, c.1 < 6

/-- The content of one address. -/
def Memory.read : Memory → Nat → Held Byte
  | [], _ => Memory.unlisted
  | (k, v) :: rest, a => if k = a then .holds v else Memory.read rest a

/-- Store one byte, keeping the addresses rising. -/
def Memory.write : Memory → Nat → Byte → Memory
  | [], a, v => [(a, v)]
  | (k, w) :: rest, a, v =>
      if a < k then (a, v) :: (k, w) :: rest
      else if a = k then (a, v) :: rest
      else (k, w) :: Memory.write rest a v

/-- `MemRead(i, 1)` = `FB[i]` (spec/00_scope.md R9). -/
def State.memRead (s : State) (i : Fin 6) : Held Byte := s.fb.read i.val

/-- `MemWrite(i, 1, v)` = `FB[i] <- v` (R9). -/
def State.memWrite (s : State) (i : Fin 6) (v : Byte) : State :=
  { s with fb := s.fb.write i.val v }

/-! ## Sequencing and events -/

/-- The index after a `PUSH`: plus one, wrapping `5 -> 0` (spec/40_frame_ops.md R95). -/
def nextIdx (i : Fin 6) : Fin 6 := if i = 5 then 0 else i + 1

/-- `IDX <- i`. -/
def State.setIdx (s : State) (i : Fin 6) : State := { s with idx := i }

/-- `emit E(v...)` (spec/00_scope.md R9, R13): the event joins the trace of the run. -/
def State.emit (s : State) (e : Event) : State := { s with trace := s.trace ++ [e] }

/-- The `REPORT` event with the Report registers' contents (R13). -/
def State.reportEvent (s : State) : Event :=
  .report s.jx s.jy s.ax s.ay s.az s.bc s.bz

/-- The `ORIENTATION` event with the Orientation registers' contents (R13). -/
def State.orientationEvent (s : State) : Event :=
  .orientation s.roll s.rollInv s.pitch s.pitchInv

end Sys2Proof.Machine
end

