-- ==== Sys2Proof/Machine/Operands.lean ====
section
/-! DEFINITION. The operand forms of the seven field extractions: shift, mask and complement of frame bytes
(spec/41_field_extraction.md R101 to R112), the function `decode` they make up (R100), and the register writes that
the extractions and `DECODE` share. -/

namespace Sys2Proof.Machine

/-- `!v` (spec/00_scope.md R7): true when `v` is zero, not a bitwise complement. -/
def logicalNot (v : Byte) : Bool := v == 0

/-- An acceleration value from its high byte and the status byte:
`(zext_10(high) << 2) | zext_10((status >> shift) & 0b11)`, the byte widened before the shift (R110). -/
def accelOf (shift : Nat) (high status : Byte) : Accel :=
  (high.setWidth 10 <<< 2) ||| ((status >>> shift) &&& 0b11).setWidth 10

/-- `AX` from `b[2]`, `b[5]` (R103). -/
def accelX (b2 b5 : Byte) : Accel := accelOf 2 b2 b5

/-- `AY` from `b[3]`, `b[5]` (R104). -/
def accelY (b3 b5 : Byte) : Accel := accelOf 4 b3 b5

/-- `AZ` from `b[4]`, `b[5]` (R105). -/
def accelZ (b4 b5 : Byte) : Accel := accelOf 6 b4 b5

/-- `BC` from `b[5]` (R106). -/
def buttonC (b5 : Byte) : Bool := logicalNot (b5 &&& 0b10)

/-- `BZ` from `b[5]` (R107). -/
def buttonZ (b5 : Byte) : Bool := logicalNot (b5 &&& 0b01)

/-- The function `decode` of a whole frame (R100). -/
def decodeFrame (f : Frame) : Report where
  jx := f.b0
  jy := f.b1
  ax := accelX f.b2 f.b5
  ay := accelY f.b3 f.b5
  az := accelZ f.b4 f.b5
  bc := buttonC f.b5
  bz := buttonZ f.b5

/-- `JX <- b[0]`. -/
def State.writeJx (s : State) (b0 : Held Byte) : State := { s with jx := b0 }

/-- `JY <- b[1]`. -/
def State.writeJy (s : State) (b1 : Held Byte) : State := { s with jy := b1 }

/-- `AX <-` its extraction. -/
def State.writeAx (s : State) (b2 b5 : Held Byte) : State := { s with ax := Held.map2 accelX b2 b5 }

/-- `AY <-` its extraction. -/
def State.writeAy (s : State) (b3 b5 : Held Byte) : State := { s with ay := Held.map2 accelY b3 b5 }

/-- `AZ <-` its extraction. -/
def State.writeAz (s : State) (b4 b5 : Held Byte) : State := { s with az := Held.map2 accelZ b4 b5 }

/-- `BC <-` its extraction. -/
def State.writeBc (s : State) (b5 : Held Byte) : State := { s with bc := b5.map buttonC }

/-- `BZ <-` its extraction. -/
def State.writeBz (s : State) (b5 : Held Byte) : State := { s with bz := b5.map buttonZ }

end Sys2Proof.Machine
end

