-- ==== Sys2Proof/Machine/Extract.lean ====
section
/-! DEFINITION. The seven field extractions (spec/41_field_extraction.md R101 to R107), each writing its one
register and no flag. -/

namespace Sys2Proof.Machine

/-- `JX <- b[0]` (R101). -/
def execJx (b0 : Byte) (s : State) : Host.Outcome State Fault Refusal := .next (s.writeJx (.holds b0))

/-- `JY <- b[1]` (R102). -/
def execJy (b1 : Byte) (s : State) : Host.Outcome State Fault Refusal := .next (s.writeJy (.holds b1))

/-- `AX` from `b[2]`, `b[5]` (R103). -/
def execAx (b2 b5 : Byte) (s : State) : Host.Outcome State Fault Refusal :=
  .next (s.writeAx (.holds b2) (.holds b5))

/-- `AY` from `b[3]`, `b[5]` (R104). -/
def execAy (b3 b5 : Byte) (s : State) : Host.Outcome State Fault Refusal :=
  .next (s.writeAy (.holds b3) (.holds b5))

/-- `AZ` from `b[4]`, `b[5]` (R105). -/
def execAz (b4 b5 : Byte) (s : State) : Host.Outcome State Fault Refusal :=
  .next (s.writeAz (.holds b4) (.holds b5))

/-- `BC` from `b[5]` (R106). -/
def execBc (b5 : Byte) (s : State) : Host.Outcome State Fault Refusal := .next (s.writeBc (.holds b5))

/-- `BZ` from `b[5]` (R107). -/
def execBz (b5 : Byte) (s : State) : Host.Outcome State Fault Refusal := .next (s.writeBz (.holds b5))

end Sys2Proof.Machine
end

