-- ==== Sys2Proof/Machine/Flags.lean ====
section
/-! DEFINITION. The four flags (spec/10_state.md R43) and what sets them: the exact sum of squares and its zero
test (spec/42_tilt.md R124 to R126), the valid flags, and `DECODE`, which writes Report and flags together. -/

namespace Sys2Proof.Machine

/-- `q = a*a + b*b`, exact (R125). -/
def sumSquares (a b : Int) : Int := a * a + b * b

/-- The degenerate denominator: the sum under the root is zero (R126). -/
def degenerate (a b : Int) : Bool := sumSquares a b == 0

/-- `RPT_VALID <- 1` and `ORI_VALID <- 0`, the flags `DECODE` writes (spec/40_frame_ops.md R93; spec/10_state.md
R31, R36). -/
def State.newReportFlags (s : State) : State := { s with rptValid := true, oriValid := false }

/-- `ORI_VALID <- 1`, the flag a computing `EST` writes (spec/42_tilt.md R121). -/
def State.newOrientationFlag (s : State) : State := { s with oriValid := true }

/-- The step `DECODE` on six bytes (spec/40_frame_ops.md R93): the seven Report registers, the two valid flags,
and the `REPORT` event with the new values. A byte that is no value (no run gets there, spec/10_state.md R38)
leaves the fields computed from it without a value. -/
def State.decodeStep (s : State) (b0 b1 b2 b3 b4 b5 : Held Byte) : State :=
  let s' := ((((((((s.writeJx b0).writeJy b1).writeAx b2 b5).writeAy b3 b5).writeAz b4 b5).writeBc b5).writeBz
    b5).newReportFlags)
  s'.emit s'.reportEvent

end Sys2Proof.Machine
end

