-- ==== Sys2Proof/Machine/FrameOps.lean ====
section
/-! DEFINITION. The frame operations (spec/40_frame_ops.md): `PUSH`, `ABORT`, `IDLE`, and the step `DECODE`. -/

namespace Sys2Proof.Machine

/-- `PUSH d` (R90, R91): `FB[IDX] <- d`; at `IDX == 5` also `DECODE`, reading `FB[5] = d`. `IDX` advances, `5 -> 0`. -/
def execPush (d : Byte) (s : State) : Host.Outcome State Fault Refusal :=
  let s1 := s.memWrite s.idx d
  if s.idx = 5 then
    .next ((s1.decodeStep (s1.memRead 0) (s1.memRead 1) (s1.memRead 2) (s1.memRead 3) (s1.memRead 4)
      (s1.memRead 5)).setIdx 0)
  else .next (s1.setIdx (nextIdx s.idx))

/-- `ABORT` (R92): `IDX <- 0`, and nothing else. -/
def execAbort (s : State) : Host.Outcome State Fault Refusal := .next (s.setIdx 0)

/-- `IDLE` (R94): nothing. -/
def execIdle (s : State) : Host.Outcome State Fault Refusal := .next s

/-- `DECODE` of the frame `f` (R93). -/
def execDecode (f : Frame) (s : State) : Host.Outcome State Fault Refusal :=
  .next (s.decodeStep (.holds f.b0) (.holds f.b1) (.holds f.b2) (.holds f.b3) (.holds f.b4) (.holds f.b5))

end Sys2Proof.Machine
end

