-- ==== Sys2Proof/Machine/System.lean ====
section
/-! DEFINITION. `RESET` (spec/70_reset_and_hazards.md R180), the block's one system operation beside `ABORT`
(spec/40_frame_ops.md R97). -/

namespace Sys2Proof.Machine

/-- `RESET` (R180): every register of the block as after reset, whatever the state before. What the host has asked
for and what the run has emitted are not the block's registers and stay (notes: assumptions 3 and 4). -/
def execReset (s : State) : Host.Outcome State Fault Refusal :=
  .next { State.reset with port := s.port, estPending := s.estPending, trace := s.trace }

end Sys2Proof.Machine
end

