-- ==== Sys2Proof/Config.lean ====
section
/-! DEFINITION. What is fixed when the block is built (spec/00_scope.md R4), and the one thing the spec leaves
open that an operation computes with: the angle arithmetic. -/

namespace Sys2Proof.Config

/-- `QNAN` (R4): the pattern written to an angle register whose result is invalid. -/
def qnan : Word32 := 0x7FC00000#32

/-- The OPEN arithmetic behind `TiltNumerics.angle` (R4; spec/42_tilt.md R130; spec/92_eei_decisions.md D14): a
free function of the numerator and of the exact sum of squares, with no body, so that nothing can be proved of
any value of it. `Machine.angle` holds it to the properties the spec names. Notes: assumption 2. -/
opaque rawAngle : Int → Int → Word32

end Sys2Proof.Config
end

