-- ==== Sys2Proof/Machine/Numerics.lean ====
section
/-! DEFINITION. Binary32 as spec/10_state.md R47 lays it out, `TiltNumerics.angle` with the properties the spec
names (spec/42_tilt.md R130 to R136), `tilt`, `estimate`, and the register writes of the two angle computations. -/

namespace Sys2Proof.Machine

/-! ## Binary32 (spec/10_state.md R47) -/

/-- Bits `30:23`, the biased exponent. -/
def expField (w : Word32) : Nat := (w.extractLsb' 23 8).toNat

/-- Bits `22:0`, the fraction. -/
def fracField (w : Word32) : Nat := (w.extractLsb' 0 23).toNat

/-- Bit 31. -/
def signBit (w : Word32) : Bool := w.getLsbD 31

/-- Not an infinity and not a NaN. -/
def isFinite (w : Word32) : Bool := expField w != 255

/-- A NaN: exponent 255 and a fraction that is not zero. -/
def isNaN (w : Word32) : Bool := expField w == 255 && fracField w != 0

/-- The number a finite pattern stands for (R47). For the patterns with exponent 255 it is not used. -/
def value (w : Word32) : Rat :=
  (-1) ^ (signBit w).toNat *
    (if expField w = 0 then (2 : Rat) ^ (-126 : Int) * ((fracField w : Rat) / 2 ^ 23)
     else (2 : Rat) ^ ((expField w : Int) - 127) * (1 + (fracField w : Rat) / 2 ^ 23))

/-- The pattern with the sign bit inverted. -/
def flipSign (w : Word32) : Word32 := w ^^^ 0x80000000#32

/-- Property RANGE of one pattern: finite, and strictly between -90 and 90 (spec/42_tilt.md R133). -/
def inRange (w : Word32) : Bool := isFinite w && decide (-90 < value w) && decide (value w < 90)

/-! ## `TiltNumerics.angle` -/

/-- A pattern held to RANGE: itself if it is in range. What replaces one that is not is never seen to matter:
`limitAngle` reaches every arithmetic the spec admits (notes: assumption 2). -/
def clampRange (w : Word32) : Word32 := if inRange w then w else 0#32

/-- A free arithmetic held to the properties the spec names: ZERO (R132), RANGE (R133), ODD (R134). DET and QONLY
(R131, R136) are its type. ACC (R135) names the open `TILT_EPS` and is stated in Safety.lean. -/
def limitAngle (raw : Int → Int → Word32) (n q : Int) : Word32 :=
  if n = 0 then 0#32
  else if 0 < n then clampRange (raw n q)
  else flipSign (clampRange (raw (-n) q))

/-- `TiltNumerics.angle` (R130): the block's angle arithmetic, open but for the named properties. -/
def angle (n q : Int) : Word32 := limitAngle Config.rawAngle n q

/-! ## `tilt` and `estimate` -/

/-- The helper `tilt` over an angle arithmetic `f` (R124): the pattern and the invalid flag. -/
def tiltWith (f : Int → Int → Word32) (n a b : Int) : Word32 × Bool :=
  if degenerate a b then (Config.qnan, true) else (f n (sumSquares a b), false)

/-- `tilt` of the block (R124). -/
def tilt (n a b : Int) : Word32 × Bool := tiltWith angle n a b

/-- The function `estimate` on integers (R120): first roll, then pitch; `z` is under the root in both. -/
def estimate (x y z : Int) : (Word32 × Bool) × (Word32 × Bool) := (tilt y x z, tilt x y z)

/-- `tilt` on acceleration values, unsigned and used as they are (R128). -/
def tiltAccel (n a b : Accel) : Word32 × Bool := tilt n.toNat a.toNat b.toNat

/-- `(ROLL, ROLL_INV) <- tilt(AY, AX, AZ)` (R122). -/
def State.writeRoll (s : State) : State :=
  let r := Held.map3 tiltAccel s.ay s.ax s.az
  { s with roll := r.map Prod.fst, rollInv := r.map Prod.snd }

/-- `(PITCH, PITCH_INV) <- tilt(AX, AY, AZ)` (R123). -/
def State.writePitch (s : State) : State :=
  let p := Held.map3 tiltAccel s.ax s.ay s.az
  { s with pitch := p.map Prod.fst, pitchInv := p.map Prod.snd }

end Sys2Proof.Machine
end

