-- ==== Sys2Proof/Machine/Tilt.lean ====
section
/-! DEFINITION. The tilt estimator's operation and its two parts (spec/42_tilt.md R121 to R123). -/

namespace Sys2Proof.Machine

/-- `EST` (R121): with a Report, both angles from the same operands, `ORI_VALID <- 1` and the `ORIENTATION` event;
without one, nothing. -/
def execEst (s : State) : Host.Outcome State Fault Refusal :=
  if s.rptValid then
    let s' := s.writeRoll.writePitch.newOrientationFlag
    .next (s'.emit s'.orientationEvent)
  else .next s

/-- `ROLL`, the roll computation (R122). -/
def execRoll (s : State) : Host.Outcome State Fault Refusal := .next s.writeRoll

/-- `PITCH`, the pitch computation (R123). -/
def execPitch (s : State) : Host.Outcome State Fault Refusal := .next s.writePitch

end Sys2Proof.Machine
end

