-- ==== Sys2Proof/Machine/Dispatch.lean ====
section
/-! DEFINITION. One arm per constructor of `Instr`, each a direct call of the instruction's meaning. -/

namespace Sys2Proof.Machine

/-- The meaning of an instruction. -/
def exec (i : Instr) (s : State) : Host.Outcome State Fault Refusal :=
  match i with
  | .reset => Sys2Proof.Machine.execReset s
  | .abort => Sys2Proof.Machine.execAbort s
  | .push d => Sys2Proof.Machine.execPush d s
  | .est => Sys2Proof.Machine.execEst s
  | .idle => Sys2Proof.Machine.execIdle s
  | .decode f => Sys2Proof.Machine.execDecode f s
  | .jx b0 => Sys2Proof.Machine.execJx b0 s
  | .jy b1 => Sys2Proof.Machine.execJy b1 s
  | .ax b2 b5 => Sys2Proof.Machine.execAx b2 b5 s
  | .ay b3 b5 => Sys2Proof.Machine.execAy b3 b5 s
  | .az b4 b5 => Sys2Proof.Machine.execAz b4 b5 s
  | .bc b5 => Sys2Proof.Machine.execBc b5 s
  | .bz b5 => Sys2Proof.Machine.execBz b5 s
  | .roll => Sys2Proof.Machine.execRoll s
  | .pitch => Sys2Proof.Machine.execPitch s

end Sys2Proof.Machine
end

