-- ==== Sys2Proof/WellFormed.lean ====
section
/-! DEFINITION. Which terms of the syntax the host may ask for. Every operand of an `Instr` is in range by its
type, so the one check on an instruction is R81's; the checks on a script line are R83's ranges. -/

namespace Sys2Proof

/-- An instruction is well-formed as a request when it is one of the five operations of spec/00_scope.md R5: the
extractions and the angle computations, and `DECODE`, "are not separately requestable" (spec/30_encoding.md R81;
spec/40_frame_ops.md R93). -/
def Instr.wellFormed : Instr → Bool
  | .reset | .abort | .push _ | .est | .idle => true
  | .decode _ | .jx _ | .jy _ | .ax _ _ | .ay _ _ | .az _ _ | .bc _ | .bz _ | .roll | .pitch => false

/-- `byte`, `jx`, `jy` of R83: a number in `0..255`. -/
def inByte (n : Nat) : Bool := decide (n < 256)

/-- `ax`, `ay`, `az` of R83: a number in `0..1023`. -/
def inAccel (n : Nat) : Bool := decide (n < 1024)

/-- `bc`, `bz` of R83: `0` or `1`. -/
def inBit (n : Nat) : Bool := decide (n < 2)

/-- The ranges of a script line's operands (R83). -/
def ScriptLine.wellFormed : ScriptLine → Bool
  | .reset | .abort | .est | .idle => true
  | .push d => inByte d
  | .frame b0 b1 b2 b3 b4 b5 | .poll b0 b1 b2 b3 b4 b5 =>
      inByte b0 && inByte b1 && inByte b2 && inByte b3 && inByte b4 && inByte b5
  | .report jx jy ax ay az bc bz =>
      inByte jx && inByte jy && inAccel ax && inAccel ay && inAccel az && inBit bc && inBit bz

end Sys2Proof
end

