-- ==== Sys2Proof/Decode.lean ====
section
/-! DEFINITION. The encodings of spec/30_encoding.md in both directions: operation words (PORT12), frames
(REPORT48), the opcode table with its masks, the inverse packing, and the assembly of script lines. -/

namespace Sys2Proof

/-! ## The frame word -/

/-- The frame written as one word, `F = b[0] ‖ b[1] ‖ b[2] ‖ b[3] ‖ b[4] ‖ b[5]` (spec/00_scope.md R8). -/
def Frame.toWord (f : Frame) : Word48 :=
  f.b0 ++ f.b1 ++ f.b2 ++ f.b3 ++ f.b4 ++ f.b5

/-- The six bytes of a frame word, `b[k] = F[47-8k : 40-8k]` (R8). -/
def Frame.ofWord (F : Word48) : Frame where
  b0 := F.extractLsb' 40 8
  b1 := F.extractLsb' 32 8
  b2 := F.extractLsb' 24 8
  b3 := F.extractLsb' 16 8
  b4 := F.extractLsb' 8 8
  b5 := F.extractLsb' 0 8

/-! ## Decoding -/

/-- What an operation word asks for: the table of `C[3:0]` in R79. `C[3] = rst`, `C[2] = abort`, `C[1] = push`,
`C[0] = est`, `D = W[7:0]` (R78). -/
def decodePort (w : Word12) : Request :=
  if w.getLsbD 11 then ⟨.reset, false⟩
  else if w.getLsbD 10 then ⟨.abort, w.getLsbD 8⟩
  else if w.getLsbD 9 then ⟨.push (w.extractLsb' 0 8), w.getLsbD 8⟩
  else if w.getLsbD 8 then ⟨.est, false⟩
  else ⟨.idle, false⟩

/-- A word of either format. -/
inductive Encoded where
  | port12 (w : Word12)
  | report48 (F : Word48)
  deriving DecidableEq, Repr

/-- The operations a word stands for, in the order they are performed: R79 for an operation word; `DECODE` for a
frame, which "applies to every frame" (spec/40_frame_ops.md R93). Total: no word is illegal (R76, R80). -/
def Encoded.ops : Encoded → List Instr
  | .port12 w => (decodePort w).ops
  | .report48 F => [.decode (Frame.ofWord F)]

/-- Why a sequence of bytes is no word of the block. -/
inductive DecodeReject where
  /-- Neither the two bytes that carry an operation word nor the six bytes of a frame (R82). -/
  | badLength (n : Nat)
  /-- A two-byte carrier with a bit set above bit 11: "an operation word is always 12 bits" (R82). -/
  | notTwelveBits
  deriving DecidableEq, Repr

/-- Decode bytes. Six bytes are a frame, `b[0]` first (spec/20_memory.md R51). Two bytes carry an operation word,
low byte first: the spec gives operation words no bytes (DESIGN CHOICE, notes: assumption 6). -/
def decodeBytes : List Byte → Except DecodeReject (List Instr)
  | [lo, hi] =>
      if hi.toNat < 16 then .ok (Encoded.port12 (hi.setWidth 4 ++ lo)).ops else .error .notTwelveBits
  | [b0, b1, b2, b3, b4, b5] => .ok [.decode ⟨b0, b1, b2, b3, b4, b5⟩]
  | bs => .error (.badLength bs.length)

/-- The bytes of a table word: a frame of 48 bits as its six bytes in wire order, any word of at most 16 bits in
the two-byte carrier. Other sizes have no bytes here and are rejected. -/
def tableWordBytes (nbits w : Nat) : List Byte :=
  if nbits = 48 then
    [BitVec.ofNat 8 (w / 2 ^ 40), BitVec.ofNat 8 (w / 2 ^ 32), BitVec.ofNat 8 (w / 2 ^ 24),
      BitVec.ofNat 8 (w / 2 ^ 16), BitVec.ofNat 8 (w / 2 ^ 8), BitVec.ofNat 8 w]
  else if nbits ≤ 16 then
    [BitVec.ofNat 8 (w % 2 ^ nbits), BitVec.ofNat 8 (w % 2 ^ nbits / 2 ^ 8)]
  else []

/-- The instruction the decoder reads first from the table's word `w` of `nbits` bits. -/
def decodeTableWord (nbits w : Nat) : Option Instr :=
  match decodeBytes (tableWordBytes nbits w) with
  | .ok ops => ops.head?
  | .error _ => none

/-! ## Encoding -/

/-- The operation word of `PUSH d`, `0x200 + d` (spec/40_frame_ops.md R90). -/
def pushWord (d : Byte) : Word12 := 0x200#12 + d.setWidth 12

/-- The word of an instruction: an operation's own word with `D` at its canonical `0x00` (R78, R83); for a part of
`EST`, the word of `EST`; for `DECODE` its frame; for an extraction, the frame that carries its operand bytes and
zeros elsewhere (R72, R81). -/
def encode : Instr → Encoded
  | .reset => .port12 0x800#12
  | .abort => .port12 0x400#12
  | .push d => .port12 (pushWord d)
  | .est => .port12 0x100#12
  | .idle => .port12 0x000#12
  | .decode f => .report48 f.toWord
  | .jx b0 => .report48 (Frame.toWord ⟨b0, 0, 0, 0, 0, 0⟩)
  | .jy b1 => .report48 (Frame.toWord ⟨0, b1, 0, 0, 0, 0⟩)
  | .ax b2 b5 => .report48 (Frame.toWord ⟨0, 0, b2, 0, 0, b5⟩)
  | .ay b3 b5 => .report48 (Frame.toWord ⟨0, 0, 0, b3, 0, b5⟩)
  | .az b4 b5 => .report48 (Frame.toWord ⟨0, 0, 0, 0, b4, b5⟩)
  | .bc b5 => .report48 (Frame.toWord ⟨0, 0, 0, 0, 0, b5⟩)
  | .bz b5 => .report48 (Frame.toWord ⟨0, 0, 0, 0, 0, b5⟩)
  | .roll => .port12 0x100#12
  | .pitch => .port12 0x100#12

/-- How many bits the opcode table gives a word's row, in whole bytes: 12 bits take two. -/
def Encoded.nbits : Encoded → Nat
  | .port12 _ => 16
  | .report48 _ => 48

/-- The word as the opcode table numbers its bits. -/
def Encoded.number : Encoded → Nat
  | .port12 w => w.toNat
  | .report48 F => F.toNat

/-! ## The opcode table -/

/-- A row's mask and match on a word of its format (R81). -/
inductive RowPattern where
  | port12 (mask value : Word12)
  | report48 (mask value : Word48)
  deriving DecidableEq, Repr

/-- "a word selects the row when `(word & mask) == match`" (R81). -/
def RowPattern.selects : RowPattern → Encoded → Bool
  | .port12 mask value, .port12 w => w &&& mask == value
  | .report48 mask value, .report48 F => F &&& mask == value
  | _, _ => false

/-- spec/opcode_table.json, row by row. -/
def opcodeTable : List (String × RowPattern) :=
  [("RESET", .port12 0x800#12 0x800#12), ("ABORT", .port12 0xC00#12 0x400#12),
    ("PUSH", .port12 0xE00#12 0x200#12), ("EST", .port12 0x900#12 0x100#12),
    ("IDLE", .port12 0xF00#12 0x000#12)] ++
  [("DECODE", .report48 0#48 0#48), ("JX", .report48 0#48 0#48), ("JY", .report48 0#48 0#48),
    ("AX", .report48 0#48 0#48), ("AY", .report48 0#48 0#48), ("AZ", .report48 0#48 0#48),
    ("BC", .report48 0#48 0#48), ("BZ", .report48 0#48 0#48)] ++
  [("ROLL", .port12 0x900#12 0x100#12), ("PITCH", .port12 0x900#12 0x100#12)]

/-- The table's name for an instruction. -/
def Instr.mnemonic : Instr → String
  | .reset => "RESET"
  | .abort => "ABORT"
  | .push _ => "PUSH"
  | .est => "EST"
  | .idle => "IDLE"
  | .decode _ => "DECODE"
  | .jx _ => "JX"
  | .jy _ => "JY"
  | .ax _ _ => "AX"
  | .ay _ _ => "AY"
  | .az _ _ => "AZ"
  | .bc _ => "BC"
  | .bz _ => "BZ"
  | .roll => "ROLL"
  | .pitch => "PITCH"

/-- Does the word select the row of this name? -/
def selectsRow (mnemonic : String) (e : Encoded) : Bool :=
  opcodeTable.any fun row => row.1 == mnemonic && row.2.selects e

/-- Every instruction of the table whose row a word selects, with the operands it reads from the word: the
operations of R79; with an `EST`, its two angle computations; for a frame, `DECODE` and its seven extractions
(R81). -/
def Encoded.rows : Encoded → List Instr
  | .port12 w =>
      let ops := (decodePort w).ops
      if Instr.est ∈ ops then ops ++ [.roll, .pitch] else ops
  | .report48 F =>
      let f := Frame.ofWord F
      [.decode f, .jx f.b0, .jy f.b1, .ax f.b2 f.b5, .ay f.b3 f.b5, .az f.b4 f.b5, .bc f.b5, .bz f.b5]

/-! ## The inverse packing and the script notation -/

/-- `1 - b` for a button bit: the wire's `1` is released (R74, R85). -/
def releasedBit (pressed : Bool) : Byte := if pressed then 0 else 1

/-- `pack`, the inverse of `decode` (R85). -/
def Report.pack (r : Report) : Frame where
  b0 := r.jx
  b1 := r.jy
  b2 := (r.ax >>> 2).setWidth 8
  b3 := (r.ay >>> 2).setWidth 8
  b4 := (r.az >>> 2).setWidth 8
  b5 := ((r.az &&& 3).setWidth 8 <<< 6) ||| ((r.ay &&& 3).setWidth 8 <<< 4) |||
    ((r.ax &&& 3).setWidth 8 <<< 2) ||| (releasedBit r.bc <<< 1) ||| releasedBit r.bz

/-- `FRAME`: six `PUSH` operations, `b[0]` first (R84). -/
def Frame.pushes (f : Frame) : List Instr :=
  [.push f.b0, .push f.b1, .push f.b2, .push f.b3, .push f.b4, .push f.b5]

/-- The operations of a script line: a primitive is itself; `FRAME`, `POLL` and `REPORT` expand as R84 says. -/
def ScriptLine.ops : ScriptLine → List Instr
  | .reset => [.reset]
  | .abort => [.abort]
  | .est => [.est]
  | .idle => [.idle]
  | .push d => [.push (BitVec.ofNat 8 d)]
  | .frame b0 b1 b2 b3 b4 b5 =>
      Frame.pushes ⟨BitVec.ofNat 8 b0, BitVec.ofNat 8 b1, BitVec.ofNat 8 b2, BitVec.ofNat 8 b3,
        BitVec.ofNat 8 b4, BitVec.ofNat 8 b5⟩
  | .poll b0 b1 b2 b3 b4 b5 =>
      Frame.pushes ⟨BitVec.ofNat 8 b0, BitVec.ofNat 8 b1, BitVec.ofNat 8 b2, BitVec.ofNat 8 b3,
        BitVec.ofNat 8 b4, BitVec.ofNat 8 b5⟩ ++ [.est]
  | .report jx jy ax ay az bc bz =>
      (Report.pack ⟨BitVec.ofNat 8 jx, BitVec.ofNat 8 jy, BitVec.ofNat 10 ax, BitVec.ofNat 10 ay,
        BitVec.ofNat 10 az, decide (bc = 1), decide (bz = 1)⟩).pushes

/-- A script line assembles to one word per operation (R83); none of its operations is a part. -/
def ScriptLine.words (l : ScriptLine) : List Encoded := l.ops.map encode

end Sys2Proof
end

