-- ==== Sys2Proof/Machine/Port.lean ====
section
/-! DEFINITION. How the next operation is chosen: the operation words at the ports (spec/30_encoding.md R78, R79),
one operation a step. -/

namespace Sys2Proof.Machine

/-- The host puts one more operation word at the ports (spec/00_scope.md R19). -/
def State.request (s : State) (w : Word12) : State := { s with port := s.port ++ [w] }

/-- Start on the word `w`, leaving the words `rest` for later: the operation performed first, and the state with
the word taken (R79). -/
def State.takeWord (s : State) (w : Word12) (rest : List Word12) : Instr × State :=
  ((decodePort w).first, { s with port := rest, estPending := (decodePort w).thenEst })

/-- The next operation: the `EST` still owed for the last word, else the first operation of the next word, else,
with no request at the ports, `IDLE` (R78, R79). -/
def State.nextOperation (s : State) : Instr × State :=
  if s.estPending then (.est, { s with estPending := false })
  else
    match s.port with
    | [] => (.idle, s)
    | w :: rest => s.takeWord w rest

/-- The state in which a frame's first five bytes are buffered and its sixth is next at the ports: where `DECODE`
of that frame happens (spec/40_frame_ops.md R91, R93). DESIGN CHOICE: an `EST` still owed for the last word is
dropped, so that the very next step is that `PUSH` (notes: assumption 3). -/
def State.placeFrame (s : State) (f : Frame) : State :=
  { s with
    idx := 5
    fb := ((((s.fb.write 0 f.b0).write 1 f.b1).write 2 f.b2).write 3 f.b3).write 4 f.b4
    port := pushWord f.b5 :: s.port
    estPending := false }

/-- The table's word `w` of `nbits` bits placed so that the very next step runs it: an operation word next at the
ports, or a frame as `State.placeFrame` (notes: assumptions 3 and 6). DESIGN CHOICE: an `EST` still owed for the last
word is dropped (assumption 3). DESIGN CHOICE: of a word that is not 48 bits long the low 12 bits are placed and the
bits above bit 11 dropped, since the ports carry 12; `decodeBytes` rejects such a word (assumption 6). -/
def State.placeWord (s : State) (nbits w : Nat) : State :=
  if nbits = 48 then s.placeFrame (Frame.ofWord (BitVec.ofNat 48 w))
  else { s with port := BitVec.ofNat 12 (w % 2 ^ nbits) :: s.port, estPending := false }

end Sys2Proof.Machine
end

