-- ==== Sys2Proof/Machine/Step.lean ====
section
/-! DEFINITION. One step: the next operation, performed whole (spec/00_scope.md R5). -/

namespace Sys2Proof.Machine

/-- One atomic operation of the run. -/
def step (s : State) : Host.Outcome State Fault Refusal :=
  exec s.nextOperation.1 s.nextOperation.2

/-- `s` with the table's word `w` where the next step takes it from (`State.placeWord`, with its choices). -/
def State.withFetchWord (s : State) (nbits w : Nat) : State := s.placeWord nbits w

end Sys2Proof.Machine
end

