-- ==== Sys2Proof/Machine/Outputs.lean ====
section
/-! DEFINITION. What a consumer sees: the output registers (spec/00_scope.md R12). Reading changes nothing
(spec/20_memory.md R58), so a read is a function of the state and no step. -/

namespace Sys2Proof.Machine

/-- The content of an output register, its bits read as an unsigned number (R6, R10). -/
def State.output (s : State) : OutReg → Held Nat
  | .jx => s.jx.map BitVec.toNat
  | .jy => s.jy.map BitVec.toNat
  | .ax => s.ax.map BitVec.toNat
  | .ay => s.ay.map BitVec.toNat
  | .az => s.az.map BitVec.toNat
  | .bc => s.bc.map Bool.toNat
  | .bz => s.bz.map Bool.toNat
  | .rptValid => .holds s.rptValid.toNat
  | .roll => s.roll.map BitVec.toNat
  | .pitch => s.pitch.map BitVec.toNat
  | .rollInv => s.rollInv.map Bool.toNat
  | .pitchInv => s.pitchInv.map Bool.toNat
  | .oriValid => .holds s.oriValid.toNat

/-- A consumer's read: the number, or a refusal if the register holds no value (spec/10_state.md R37). -/
def State.readOutput (s : State) (r : OutReg) : Except Refusal Nat :=
  match s.output r with
  | .holds n => .ok n
  | .noValue => .error (.noValue r)

/-- The code of `InvalidOrientation`, `(ROLL_INV, PITCH_INV)`, when the Orientation is current and some angle is
invalid (spec/60_exceptions.md R151; spec/42_tilt.md R145): the consumer's to act on, raised by nothing. -/
def State.invalidOrientation (s : State) : Option (Bool × Bool) :=
  match s.oriValid, s.rollInv, s.pitchInv with
  | true, .holds r, .holds p => if r || p then some (r, p) else none
  | _, _, _ => none

end Sys2Proof.Machine
end

