-- ==== Sys2Proof/Safety.lean ====
section
/-! DEFINITION. The terms claims are stated in: runs, what a step may leave unchanged, the invariant of every run
(spec/10_state.md R39), the consumer's duty (spec/70_reset_and_hazards.md R189), and the real-number side of the
tilt estimator (spec/00_scope.md R11; spec/42_tilt.md R132 to R138). -/

namespace Sys2Proof

open Machine

/-! ## Runs -/

/-- Perform operations one after another (spec/00_scope.md R5). -/
def perform : List Instr → State → Host.Outcome State Fault Refusal
  | [], s => .next s
  | i :: rest, s =>
      match exec i s with
      | .next t => perform rest t
      | .fault r => .fault r
      | .refused r => .refused r

/-- The block's own registers: the state with the host's requests and the emitted events left out. -/
def blockOf (s : State) : State := { s with port := [], estPending := false, trace := [] }

/-! ## Frames: what an instruction leaves unchanged -/

/-- The seven Report registers are the same. -/
def SameReport (s t : State) : Prop :=
  t.jx = s.jx ∧ t.jy = s.jy ∧ t.ax = s.ax ∧ t.ay = s.ay ∧ t.az = s.az ∧ t.bc = s.bc ∧ t.bz = s.bz

/-- The four Orientation registers are the same. -/
def SameOrientation (s t : State) : Prop :=
  t.roll = s.roll ∧ t.rollInv = s.rollInv ∧ t.pitch = s.pitch ∧ t.pitchInv = s.pitchInv

/-- The two valid flags are the same. -/
def SameValid (s t : State) : Prop := t.rptValid = s.rptValid ∧ t.oriValid = s.oriValid

/-- Every address of the frame buffer reads the same. -/
def SameMemory (s t : State) : Prop := ∀ a : Nat, t.fb.read a = s.fb.read a

/-- What the host has asked for is the same. -/
def SameRequests (s t : State) : Prop := t.port = s.port ∧ t.estPending = s.estPending

/-- The Report registers contain the Report `r`. -/
def HoldsReport (s : State) (r : Report) : Prop :=
  s.jx = .holds r.jx ∧ s.jy = .holds r.jy ∧ s.ax = .holds r.ax ∧ s.ay = .holds r.ay ∧ s.az = .holds r.az ∧
    s.bc = .holds r.bc ∧ s.bz = .holds r.bz

/-- The frame buffer contains the frame `f`. -/
def HoldsFrame (s : State) (f : Frame) : Prop :=
  s.fb.read 0 = .holds f.b0 ∧ s.fb.read 1 = .holds f.b1 ∧ s.fb.read 2 = .holds f.b2 ∧
    s.fb.read 3 = .holds f.b3 ∧ s.fb.read 4 = .holds f.b4 ∧ s.fb.read 5 = .holds f.b5

/-- The Orientation registers contain the estimate of the acceleration values `x`, `y`, `z`
(spec/10_state.md R39 (e)). -/
def HoldsEstimate (s : State) (x y z : Accel) : Prop :=
  s.roll = .holds (tiltAccel y x z).1 ∧ s.rollInv = .holds (tiltAccel y x z).2 ∧
    s.pitch = .holds (tiltAccel x y z).1 ∧ s.pitchInv = .holds (tiltAccel x y z).2

/-- Two states that differ at most in frame-buffer bytes no operation will read: those at `IDX` and above
(spec/10_state.md R21, R40). -/
def SameButDeadBytes (s t : State) : Prop :=
  t = { s with fb := t.fb } ∧ ∀ i : Fin 6, i < s.idx → t.memRead i = s.memRead i

/-- Is the operation a `PUSH`? -/
def isPush : Instr → Bool
  | .push _ => true
  | _ => false

/-- Is the event a `REPORT`? -/
def isReport : Event → Bool
  | .report .. => true
  | .orientation .. => false

/-! ## The invariant of every run -/

/-- Does the event carry values only? -/
def eventHeld : Event → Bool
  | .report jx jy ax ay az bc bz =>
      jx.isHeld && jy.isHeld && ax.isHeld && ay.isHeld && az.isHeld && bc.isHeld && bz.isHeld
  | .orientation roll rollInv pitch pitchInv => roll.isHeld && rollInv.isHeld && pitch.isHeld && pitchInv.isHeld

/-- An angle register with its flag: both without a value; or marked invalid and `QNAN`; or marked valid and a
finite number strictly between -90 and 90 (spec/10_state.md R34, R35, R39 (f); spec/42_tilt.md R133). -/
def AngleForm : Held Word32 → Held Bool → Prop
  | .noValue, .noValue => True
  | .holds w, .holds true => w = Config.qnan
  | .holds w, .holds false => inRange w = true
  | _, _ => False

/-- What holds after every operation of every run (spec/10_state.md R31, R36, R38, R39). R39 (a) and the bounds of
(b) are the types of `IDX` and of the Report registers. -/
structure RunInvariant (s : State) : Prop where
  /-- The frame buffer keeps its canonical form. -/
  memory : s.fb.wf
  /-- Every byte accepted so far is there (R38). -/
  accepted : ∀ i : Fin 6, i < s.idx → (s.memRead i).isHeld = true
  /-- With `RPT_VALID` the Report registers contain a Report (R31). -/
  report : s.rptValid = true → ∃ r, HoldsReport s r
  /-- Without it no Report and no Orientation register contains a value (R31, R36). -/
  empty : s.rptValid = false → s.jx = .noValue ∧ s.jy = .noValue ∧ s.ax = .noValue ∧ s.ay = .noValue ∧
    s.az = .noValue ∧ s.bc = .noValue ∧ s.bz = .noValue ∧ s.roll = .noValue ∧ s.rollInv = .noValue ∧
    s.pitch = .noValue ∧ s.pitchInv = .noValue
  /-- R39 (d). -/
  oriReport : s.oriValid = true → s.rptValid = true
  /-- R39 (e): a current Orientation is the estimate of the current Report. -/
  estimate : s.oriValid = true → ∀ x y z, s.ax = .holds x → s.ay = .holds y → s.az = .holds z →
    HoldsEstimate s x y z
  /-- R39 (f), roll. -/
  roll : AngleForm s.roll s.rollInv
  /-- R39 (f), pitch. -/
  pitch : AngleForm s.pitch s.pitchInv
  /-- Every event of the trace carries values (spec/00_scope.md R13, R38). -/
  events : ∀ e ∈ s.trace, eventHeld e = true

/-! ## The consumer's duty -/

/-- May a consumer read this output now (spec/70_reset_and_hazards.md R189)? -/
def mayRead (s : State) : OutReg → Bool
  | .jx | .jy | .ax | .ay | .az | .bc | .bz => s.rptValid
  | .roll | .pitch | .rollInv | .pitchInv => s.oriValid
  | .rptValid | .oriValid => true

/-! ## The ideal angle and the named properties -/

/-- `θ(n, q) = atan(n / sqrt(q)) * 180/π`, in degrees (spec/00_scope.md R11). -/
noncomputable def theta (n q : Int) : ℝ := Real.arctan ((n : ℝ) / Real.sqrt (q : ℝ)) * (180 / Real.pi)

/-- Property ZERO of an angle arithmetic (spec/42_tilt.md R132). -/
def NumericsZero (f : Int → Int → Word32) : Prop := ∀ q, 0 < q → f 0 q = 0#32

/-- Property RANGE (R133). -/
def NumericsRange (f : Int → Int → Word32) : Prop :=
  ∀ n q, 0 < q → isFinite (f n q) = true ∧ -90 < value (f n q) ∧ value (f n q) < 90

/-- Property ODD (R134). -/
def NumericsOdd (f : Int → Int → Word32) : Prop := ∀ n q, n ≠ 0 → 0 < q → f (-n) q = flipSign (f n q)

/-- Property ACC with the bound `eps`, in degrees (R135). -/
def NumericsAcc (eps : ℝ) (f : Int → Int → Word32) : Prop :=
  ∀ n q, 0 < q → |(value (f n q) : ℝ) - theta n q| ≤ eps

/-- The least bound that makes ACC true of the block's angle arithmetic: any `TILT_EPS` the spec admits is at
least this (R135; notes: assumption 8). -/
noncomputable def tiltEps : ℝ :=
  sSup { e | ∃ n q : Int, 0 < q ∧ e = |(value (angle n q) : ℝ) - theta n q| }

/-- The pattern is the binary32 number nearest to `x`, ties to an even fraction field: the rounding of the
reference numerics (R138). -/
def IsNearest (w : Word32) (x : ℝ) : Prop :=
  isFinite w = true ∧ ∀ v : Word32, isFinite v = true →
    |(value w : ℝ) - x| ≤ |(value v : ℝ) - x| ∧
    (|(value w : ℝ) - x| = |(value v : ℝ) - x| → value w = value v ∨ fracField w % 2 = 0)

/-- The pattern `angle_ref(n, q)`: the binary32 number nearest to the ideal angle (R138), with the sign of the
numerator. The sign decides only which zero stands for an angle that rounds to zero: `+0.0` for `n = 0`, as the
rule's ZERO asks; for a negative numerator the negative zero, as its ODD asks (notes: assumption 9). -/
def IsReferenceAngle (n q : Int) (w : Word32) : Prop :=
  IsNearest w (theta n q) ∧ signBit w = decide (n < 0)

/-- The reference numerics `angle_ref`, on all integers `n` and `q > 0` (R138). A yardstick for vectors, not the
block's arithmetic. -/
noncomputable def angleRef (n q : Int) : Word32 := Classical.epsilon (IsReferenceAngle n q)

/-- The numerators for which R138 bounds the ideal angle by 89.944: the block's own, `0..1023`, and their
negatives (spec/42_tilt.md R128, R134). -/
def InReferenceDomain (n : Int) : Prop := -1023 ≤ n ∧ n ≤ 1023

/-- The arithmetic is the reference numerics wherever the block can ask it: the premise of a claim about the
patterns of `angle_ref`. An arithmetic with ZERO, RANGE and ODD can have it (R138; notes: assumption 9). -/
def IsReference (f : Int → Int → Word32) : Prop :=
  ∀ n q, InReferenceDomain n → 0 < q → f n q = angleRef n q

end Sys2Proof
end

