-- ==== Sys2Proof/Certificates/Slice0/Obligations.lean ====
section
/-! DEFINITION. The statements about the model, from the numbered rules of spec/. Each docstring names what it
formalises. A statement that an instruction has a result says that `exec` answers a next state. -/

open Sys2Proof Sys2Proof.Machine

/-! ## Encodings -/

/-- Words written out from R78's table and from the vectors V11, V16 decode to their instructions. -/
def Obligations.WrittenWordsDecode : Prop :=
  decodeTableWord 16 0x800 = some .reset ∧ decodeTableWord 16 0x400 = some .abort ∧
  decodeTableWord 16 0x280 = some (.push 0x80#8) ∧ decodeTableWord 16 0x2FF = some (.push 0xFF#8) ∧
  decodeTableWord 16 0x100 = some .est ∧ decodeTableWord 16 0x0A7 = some .idle ∧
  decodeTableWord 16 0x6FF = some .abort ∧ decodeTableWord 16 0xF55 = some .reset ∧
  decodePort 0x31C#12 = ⟨.push 0x1C#8, true⟩ ∧ decodePort 0x500#12 = ⟨.abort, true⟩ ∧
  decodeTableWord 48 0x123456789AE6 = some (.decode ⟨0x12#8, 0x34#8, 0x56#8, 0x78#8, 0x9A#8, 0xE6#8⟩)

/-- R79: the complete decode of `C[3:0]`, and the operations of one word performed in order, each a step of its
own: after the first of two, the `EST` is the next step's, whatever words wait at the ports. That words wait in the
queue `port` and an `EST` in `estPending` is the model's choice (assumption 3). -/
def Obligations.CoincidentRequestsPerformedInOrder : Prop :=
  (∀ w : Word12,
    (w.extractLsb' 8 4 = 0 → (decodePort w).ops = [.idle]) ∧
    (w.extractLsb' 8 4 = 1 → (decodePort w).ops = [.est]) ∧
    (w.extractLsb' 8 4 = 2 → (decodePort w).ops = [.push (w.extractLsb' 0 8)]) ∧
    (w.extractLsb' 8 4 = 3 → (decodePort w).ops = [.push (w.extractLsb' 0 8), .est]) ∧
    (w.extractLsb' 8 4 = 4 ∨ w.extractLsb' 8 4 = 6 → (decodePort w).ops = [.abort]) ∧
    (w.extractLsb' 8 4 = 5 ∨ w.extractLsb' 8 4 = 7 → (decodePort w).ops = [.abort, .est]) ∧
    (8 ≤ w.extractLsb' 8 4 → (decodePort w).ops = [.reset])) ∧
  ∀ (s : State) (w : Word12) (rest : List Word12), s.estPending = false → s.port = w :: rest →
    (∀ i, (decodePort w).ops = [i] → step s = exec i { s with port := rest }) ∧
    (∀ i, (decodePort w).ops = [i, .est] →
      ∃ t u, exec i { s with port := rest } = .next t ∧ step s = .next { t with estPending := true } ∧
        exec .est t = .next u ∧ step { t with estPending := true } = .next u ∧ u.port = rest ∧
        u.estPending = false)

/-- R78, R81: a word selects exactly the rows of the operations it asks for; the rows `ROLL` and `PITCH` go with
`EST`; every frame selects every REPORT48 row. -/
def Obligations.OpcodeRowsSelectExactly : Prop :=
  (∀ w : Word12,
    (selectsRow "RESET" (.port12 w) = true ↔ .reset ∈ (decodePort w).ops) ∧
    (selectsRow "ABORT" (.port12 w) = true ↔ .abort ∈ (decodePort w).ops) ∧
    (selectsRow "PUSH" (.port12 w) = true ↔ .push (w.extractLsb' 0 8) ∈ (decodePort w).ops) ∧
    (selectsRow "EST" (.port12 w) = true ↔ .est ∈ (decodePort w).ops) ∧
    (selectsRow "IDLE" (.port12 w) = true ↔ .idle ∈ (decodePort w).ops) ∧
    (selectsRow "ROLL" (.port12 w) = true ↔ .est ∈ (decodePort w).ops) ∧
    (selectsRow "PITCH" (.port12 w) = true ↔ .est ∈ (decodePort w).ops)) ∧
  ∀ (F : Word48) (m : String), m ∈ ["DECODE", "JX", "JY", "AX", "AY", "AZ", "BC", "BZ"] →
    selectsRow m (.report48 F) = true

/-- Decode and encode agree: for each of the five operations and for `DECODE` of any frame, with every operand at
every value, both as a word and as the opcode table numbers its bits; and every frame word is the word of its
frame. -/
def Obligations.EncodedInstructionsDecodeBack : Prop :=
  (∀ i : Instr, (i.wellFormed = true ∨ ∃ f, i = .decode f) →
    (encode i).ops = [i] ∧ decodeTableWord (encode i).nbits (encode i).number = some i) ∧
  ∀ F : Word48, (Frame.ofWord F).toWord = F

/-- R70 to R75 on the frame word: the bits of `F` that each Report field is made of. -/
def Obligations.ReportFieldsOfTheFrameWord : Prop :=
  ∀ F : Word48, decodeFrame (Frame.ofWord F) =
    { jx := F.extractLsb' 40 8, jy := F.extractLsb' 32 8,
      ax := F.extractLsb' 24 8 ++ F.extractLsb' 2 2,
      ay := F.extractLsb' 16 8 ++ F.extractLsb' 4 2,
      az := F.extractLsb' 8 8 ++ F.extractLsb' 6 2,
      bc := !F.getLsbD 1, bz := !F.getLsbD 0 }

/-- R113: `decode` is a bijection between frames and Reports with inverse `pack`; two different frames never
decode alike. -/
def Obligations.PackAndDecodeAreInverse : Prop :=
  (∀ r : Report, decodeFrame r.pack = r) ∧ (∀ f : Frame, (decodeFrame f).pack = f) ∧
  ∀ f g : Frame, decodeFrame f = decodeFrame g → f = g

/-- R83, R84: the words of a script line decode to its operations, one word for each; a `REPORT` line with operands
in their ranges, performed from `IDX = 0`, leaves that Report in the registers. -/
def Obligations.ScriptLinesAssembleAndRun : Prop :=
  (∀ l : ScriptLine, l.words.flatMap Encoded.ops = l.ops ∧ ∀ i ∈ l.ops, i.wellFormed = true) ∧
  ∀ (s : State) (jx jy ax ay az bc bz : Nat), s.idx = 0 →
    (ScriptLine.report jx jy ax ay az bc bz).wellFormed = true →
    ∃ t, perform (ScriptLine.report jx jy ax ay az bc bz).ops s = .next t ∧ t.idx = 0 ∧ t.rptValid = true ∧
      t.jx.map BitVec.toNat = .holds jx ∧ t.jy.map BitVec.toNat = .holds jy ∧
      t.ax.map BitVec.toNat = .holds ax ∧ t.ay.map BitVec.toNat = .holds ay ∧
      t.az.map BitVec.toNat = .holds az ∧ t.bc.map Bool.toNat = .holds bc ∧ t.bz.map Bool.toNat = .holds bz

/-! ## RESET, ABORT, IDLE -/

/-- R180: `RESET` from any state; the words that select it; twice equals once; it is the only operation that clears
`RPT_VALID`; the block's registers after it do not depend on the state before; it emits nothing. That the trace and
its earlier events survive it is the model's choice (assumption 4). -/
def Obligations.ResetResult : Prop :=
  (∀ s : State, ∃ t, exec .reset s = .next t ∧ t.idx = 0 ∧ t.rptValid = false ∧ t.oriValid = false ∧
    (∀ a, t.fb.read a = .noValue) ∧ t.jx = .noValue ∧ t.jy = .noValue ∧ t.ax = .noValue ∧ t.ay = .noValue ∧
    t.az = .noValue ∧ t.bc = .noValue ∧ t.bz = .noValue ∧ t.roll = .noValue ∧ t.rollInv = .noValue ∧
    t.pitch = .noValue ∧ t.pitchInv = .noValue ∧ t.trace = s.trace ∧
    exec .reset t = .next t ∧ blockOf t = State.reset) ∧
  (∀ w : Word12, w.getLsbD 11 = true → (decodePort w).ops = [.reset]) ∧
  ∀ (i : Instr) (s t : State), exec i s = .next t → s.rptValid = true → t.rptValid = false → i = .reset

/-- R92: `ABORT` sets `IDX` to 0 and changes nothing else; a frame pushed after it decodes exactly its own six
bytes. -/
def Obligations.AbortResult : Prop :=
  encode .abort = .port12 0x400#12 ∧
  (∀ w : Word12, w.getLsbD 11 = false → w.getLsbD 10 = true → (decodePort w).first = .abort) ∧
  ∀ s : State, ∃ t, exec .abort s = .next t ∧ t.idx = 0 ∧ SameMemory s t ∧ SameReport s t ∧
    SameOrientation s t ∧ SameValid s t ∧ t.trace = s.trace ∧ (s.idx = 0 → t = s) ∧
    ∀ f : Frame, ∃ u, perform f.pushes t = .next u ∧ HoldsReport u (decodeFrame f)

/-- R94: `IDLE` changes nothing, and any number of `IDLE` operations anywhere in a run leaves the final state and
the trace unchanged. -/
def Obligations.IdleLeavesRunsUnchanged : Prop :=
  encode .idle = .port12 0x000#12 ∧ (∀ w : Word12, w.extractLsb' 8 4 = 0 → (decodePort w).ops = [.idle]) ∧
  (∀ s : State, exec .idle s = .next s) ∧
  ∀ (ops : List Instr) (s : State), perform (ops.filter (· ≠ .idle)) s = perform ops s

/-! ## PUSH and DECODE -/

/-- R90: `PUSH d` in every state. The byte goes to `FB[IDX]` and every other address reads as before; below 5 only
`IDX` moves on besides; at 5 the frame is decoded from the bytes buffered (a byte without a value leaves the
fields computed from it without one) and `IDX` returns to 0. -/
def Obligations.PushResult : Prop :=
  ∀ (d : Byte) (s : State), encode (.push d) = .port12 (0x200#12 + d.setWidth 12) ∧
    ∃ t, exec (.push d) s = .next t ∧
      t.fb.read s.idx.val = .holds d ∧ (∀ a, a ≠ s.idx.val → t.fb.read a = s.fb.read a) ∧
      SameOrientation s t ∧
      (s.idx.val < 5 → t.idx.val = s.idx.val + 1 ∧ SameReport s t ∧ SameValid s t ∧ t.trace = s.trace) ∧
      (s.idx.val = 5 → t.idx.val = 0 ∧ t.rptValid = true ∧ t.oriValid = false ∧
        t.jx = s.fb.read 0 ∧ t.jy = s.fb.read 1 ∧
        t.ax = Held.map2 accelX (s.fb.read 2) (.holds d) ∧ t.ay = Held.map2 accelY (s.fb.read 3) (.holds d) ∧
        t.az = Held.map2 accelZ (s.fb.read 4) (.holds d) ∧ t.bc = .holds (buttonC d) ∧
        t.bz = .holds (buttonZ d) ∧
        t.trace = s.trace ++ [.report t.jx t.jy t.ax t.ay t.az t.bc t.bz])

/-- R91: the completing `PUSH`, with the first five bytes buffered: the seven registers receive `decode` of the
five bytes and of `d`, with the valid flags, `IDX`, `FB[5]` and the event; the Orientation registers keep their
patterns. -/
def Obligations.CompletingPushDecodes : Prop :=
  ∀ (b0 b1 b2 b3 b4 d : Byte) (s : State), s.idx = 5 → s.fb.read 0 = .holds b0 → s.fb.read 1 = .holds b1 →
    s.fb.read 2 = .holds b2 → s.fb.read 3 = .holds b3 → s.fb.read 4 = .holds b4 →
    ∃ t, exec (.push d) s = .next t ∧ HoldsReport t (decodeFrame ⟨b0, b1, b2, b3, b4, d⟩) ∧
      t.fb.read 5 = .holds d ∧ (∀ a, a ≠ 5 → t.fb.read a = s.fb.read a) ∧ t.rptValid = true ∧
      t.oriValid = false ∧ t.idx = 0 ∧ SameOrientation s t ∧
      t.trace = s.trace ++ [.report (.holds b0) (.holds b1) (.holds (accelX b2 d)) (.holds (accelY b3 d))
        (.holds (accelZ b4 d)) (.holds (buttonC d)) (.holds (buttonZ d))]

/-- R93: `DECODE` of a frame, its acceleration values and buttons as numbers; the frame buffer, `IDX` and the
Orientation registers are not touched. It applies to every frame, and no operation word requests it. -/
def Obligations.DecodeStepResult : Prop :=
  (∀ F : Word48, (Encoded.report48 F).ops = [.decode (Frame.ofWord F)]) ∧
  (∀ (w : Word12) (f : Frame), .decode f ∉ (decodePort w).ops) ∧
  ∀ (f : Frame) (s : State), ∃ (t : State) (x y z : Accel) (c b : Bool), exec (.decode f) s = .next t ∧
    t.jx = .holds f.b0 ∧ t.jy = .holds f.b1 ∧ t.ax = .holds x ∧ t.ay = .holds y ∧ t.az = .holds z ∧
    t.bc = .holds c ∧ t.bz = .holds b ∧
    x.toNat = 4 * f.b2.toNat + f.b5.toNat / 4 % 4 ∧ y.toNat = 4 * f.b3.toNat + f.b5.toNat / 16 % 4 ∧
    z.toNat = 4 * f.b4.toNat + f.b5.toNat / 64 % 4 ∧ c.toNat = 1 - f.b5.toNat / 2 % 2 ∧
    b.toNat = 1 - f.b5.toNat % 2 ∧ t.rptValid = true ∧ t.oriValid = false ∧
    t.trace = s.trace ++ [.report t.jx t.jy t.ax t.ay t.az t.bc t.bz] ∧
    t.idx = s.idx ∧ SameMemory s t ∧ SameOrientation s t

/-- R84, R93, R40: six pushes from `IDX = 0`, whatever the frame buffer held, leave `decode` of exactly those six
bytes, one more `REPORT` event, and `IDX` at 0; the Orientation registers keep their patterns. -/
def Obligations.SixPushesDecodeTheirFrame : Prop :=
  ∀ (f : Frame) (s : State), s.idx = 0 →
    ∃ t, perform f.pushes s = .next t ∧ HoldsReport t (decodeFrame f) ∧ HoldsFrame t f ∧ t.idx = 0 ∧
      t.rptValid = true ∧ t.oriValid = false ∧ SameOrientation s t ∧
      t.trace = s.trace ++ [.report t.jx t.jy t.ax t.ay t.az t.bc t.bz]

/-- R98: a seventh byte is the first of a new frame. -/
def Obligations.SeventhByteStartsAFrame : Prop :=
  ∀ (f : Frame) (x : Byte) (s : State), s.idx = 0 →
    ∃ t, perform (f.pushes ++ [.push x]) s = .next t ∧ HoldsReport t (decodeFrame f) ∧
      t.fb.read 0 = .holds x ∧ t.idx = 1

/-- R95: the transition table of `IDX`, and the `k`-th `PUSH` after `IDX` was 0 completes a frame exactly when `k`
is a multiple of 6, whatever `EST` and `IDLE` stand between: as many `REPORT` events as whole sixes of bytes. -/
def Obligations.FramesAreCountedInSixes : Prop :=
  (∀ s : State, ∃ t, exec .reset s = .next t ∧ t.idx = 0) ∧
  (∀ s : State, ∃ t, exec .abort s = .next t ∧ t.idx = 0) ∧
  (∀ (d : Byte) (s : State), ∃ t, exec (.push d) s = .next t ∧
    t.idx.val = if s.idx.val = 5 then 0 else s.idx.val + 1) ∧
  (∀ s : State, ∃ t, exec .est s = .next t ∧ t.idx = s.idx) ∧
  (∀ s : State, ∃ t, exec .idle s = .next t ∧ t.idx = s.idx) ∧
  ∀ (ops : List Instr) (s : State), s.idx = 0 → (∀ i ∈ ops, i = .est ∨ i = .idle ∨ ∃ d, i = .push d) →
    ∃ t, perform ops s = .next t ∧ t.idx.val = ops.countP isPush % 6 ∧
      t.trace.countP isReport = s.trace.countP isReport + ops.countP isPush / 6

/-- R21, R40: the bytes at `IDX` and above are never read again. Two states that differ in nothing else take the
same step and differ in nothing else after it; so no output and no event depends on them. -/
def Obligations.DeadBytesAreNeverRead : Prop :=
  ∀ s t : State, SameButDeadBytes s t →
    ∃ s' t', step s = .next s' ∧ step t = .next t' ∧ SameButDeadBytes s' t' ∧
      ∀ r : OutReg, s'.output r = t'.output r

/-! ## The field extractions -/

/-- R101, R102: the joystick extractions read `F[47:40]` and `F[39:32]`, write their byte verbatim and nothing
else. -/
def Obligations.JoystickExtractions : Prop :=
  (∀ F : Word48, .jx (F.extractLsb' 40 8) ∈ (Encoded.report48 F).rows ∧
    .jy (F.extractLsb' 32 8) ∈ (Encoded.report48 F).rows) ∧
  ∀ (b : Byte) (s : State),
    (∃ t, exec (.jx b) s = .next t ∧ t.jx = .holds b ∧ t.jy = s.jy ∧ t.ax = s.ax ∧ t.ay = s.ay ∧ t.az = s.az ∧
      t.bc = s.bc ∧ t.bz = s.bz ∧ t.idx = s.idx ∧ SameMemory s t ∧ SameOrientation s t ∧ SameValid s t ∧
      t.trace = s.trace) ∧
    (∃ t, exec (.jy b) s = .next t ∧ t.jy = .holds b ∧ t.jx = s.jx ∧ t.ax = s.ax ∧ t.ay = s.ay ∧ t.az = s.az ∧
      t.bc = s.bc ∧ t.bz = s.bz ∧ t.idx = s.idx ∧ SameMemory s t ∧ SameOrientation s t ∧ SameValid s t ∧
      t.trace = s.trace)

/-- R103: `AX` from `F[31:24]` and `F[3:2]`, as a number and by its bits; no other register, flag or byte
changes. -/
def Obligations.AccelerationXExtraction : Prop :=
  (∀ F : Word48, .ax (F.extractLsb' 24 8) (F.extractLsb' 0 8) ∈ (Encoded.report48 F).rows) ∧
  ∀ (b2 b5 : Byte) (s : State), ∃ t v, exec (.ax b2 b5) s = .next t ∧ t.ax = .holds v ∧
    v.toNat = 4 * b2.toNat + b5.toNat / 4 % 4 ∧ v.extractLsb' 2 8 = b2 ∧ v.extractLsb' 0 2 = b5.extractLsb' 2 2 ∧
    t.jx = s.jx ∧ t.jy = s.jy ∧ t.ay = s.ay ∧ t.az = s.az ∧ t.bc = s.bc ∧ t.bz = s.bz ∧ t.idx = s.idx ∧
    SameMemory s t ∧ SameOrientation s t ∧ SameValid s t ∧ t.trace = s.trace

/-- R104: `AY`, as R103. -/
def Obligations.AccelerationYExtraction : Prop :=
  (∀ F : Word48, .ay (F.extractLsb' 16 8) (F.extractLsb' 0 8) ∈ (Encoded.report48 F).rows) ∧
  ∀ (b3 b5 : Byte) (s : State), ∃ t v, exec (.ay b3 b5) s = .next t ∧ t.ay = .holds v ∧
    v.toNat = 4 * b3.toNat + b5.toNat / 16 % 4 ∧ v.extractLsb' 2 8 = b3 ∧ v.extractLsb' 0 2 = b5.extractLsb' 4 2 ∧
    t.jx = s.jx ∧ t.jy = s.jy ∧ t.ax = s.ax ∧ t.az = s.az ∧ t.bc = s.bc ∧ t.bz = s.bz ∧ t.idx = s.idx ∧
    SameMemory s t ∧ SameOrientation s t ∧ SameValid s t ∧ t.trace = s.trace

/-- R105: `AZ`, as R103. -/
def Obligations.AccelerationZExtraction : Prop :=
  (∀ F : Word48, .az (F.extractLsb' 8 8) (F.extractLsb' 0 8) ∈ (Encoded.report48 F).rows) ∧
  ∀ (b4 b5 : Byte) (s : State), ∃ t v, exec (.az b4 b5) s = .next t ∧ t.az = .holds v ∧
    v.toNat = 4 * b4.toNat + b5.toNat / 64 ∧ v.extractLsb' 2 8 = b4 ∧ v.extractLsb' 0 2 = b5.extractLsb' 6 2 ∧
    t.jx = s.jx ∧ t.jy = s.jy ∧ t.ax = s.ax ∧ t.ay = s.ay ∧ t.bc = s.bc ∧ t.bz = s.bz ∧ t.idx = s.idx ∧
    SameMemory s t ∧ SameOrientation s t ∧ SameValid s t ∧ t.trace = s.trace

/-- R106, R107: a button is the complement of its bit of `b[5]`; no other register, flag or byte changes. -/
def Obligations.ButtonExtractions : Prop :=
  (∀ F : Word48, .bc (F.extractLsb' 0 8) ∈ (Encoded.report48 F).rows ∧
    .bz (F.extractLsb' 0 8) ∈ (Encoded.report48 F).rows) ∧
  ∀ (b5 : Byte) (s : State),
    (∃ t, exec (.bc b5) s = .next t ∧ t.bc = .holds (!b5.getLsbD 1) ∧ t.jx = s.jx ∧ t.jy = s.jy ∧ t.ax = s.ax ∧
      t.ay = s.ay ∧ t.az = s.az ∧ t.bz = s.bz ∧ t.idx = s.idx ∧ SameMemory s t ∧ SameOrientation s t ∧
      SameValid s t ∧ t.trace = s.trace) ∧
    (∃ t, exec (.bz b5) s = .next t ∧ t.bz = .holds (!b5.getLsbD 0) ∧ t.jx = s.jx ∧ t.jy = s.jy ∧ t.ax = s.ax ∧
      t.ay = s.ay ∧ t.az = s.az ∧ t.bc = s.bc ∧ t.idx = s.idx ∧ SameMemory s t ∧ SameOrientation s t ∧
      SameValid s t ∧ t.trace = s.trace)

/-- R111: the two parts of an acceleration value share no set bit, so the `|` is a sum and a concatenation. -/
def Obligations.AccelerationPartsAreDisjoint : Prop :=
  ∀ (shift : Nat) (high status : Byte),
    (high.setWidth 10 <<< 2 : Accel) &&& ((status >>> shift) &&& 0b11).setWidth 10 = 0 ∧
    accelOf shift high status = (high.setWidth 10 <<< 2) + ((status >>> shift) &&& 0b11).setWidth 10 ∧
    accelOf shift high status = high ++ status.extractLsb' shift 2 ∧
    (accelOf shift high status).toNat = 4 * high.toNat + status.toNat / 2 ^ shift % 4

/-- R115: each Report field depends on its own frame bits only, and flipping one bit of `b[5]` changes exactly one
field. -/
def Obligations.StatusBitsReachOneField : Prop :=
  (∀ f g : Frame,
    (f.b0 = g.b0 → (decodeFrame f).jx = (decodeFrame g).jx) ∧
    (f.b1 = g.b1 → (decodeFrame f).jy = (decodeFrame g).jy) ∧
    (f.b2 = g.b2 → f.b5.extractLsb' 2 2 = g.b5.extractLsb' 2 2 → (decodeFrame f).ax = (decodeFrame g).ax) ∧
    (f.b3 = g.b3 → f.b5.extractLsb' 4 2 = g.b5.extractLsb' 4 2 → (decodeFrame f).ay = (decodeFrame g).ay) ∧
    (f.b4 = g.b4 → f.b5.extractLsb' 6 2 = g.b5.extractLsb' 6 2 → (decodeFrame f).az = (decodeFrame g).az) ∧
    (f.b5.getLsbD 1 = g.b5.getLsbD 1 → (decodeFrame f).bc = (decodeFrame g).bc) ∧
    (f.b5.getLsbD 0 = g.b5.getLsbD 0 → (decodeFrame f).bz = (decodeFrame g).bz)) ∧
  ∀ f : Frame,
    decodeFrame { f with b5 := f.b5 ^^^ 0x01#8 } = { decodeFrame f with bz := !(decodeFrame f).bz } ∧
    decodeFrame { f with b5 := f.b5 ^^^ 0x02#8 } = { decodeFrame f with bc := !(decodeFrame f).bc } ∧
    decodeFrame { f with b5 := f.b5 ^^^ 0x04#8 } = { decodeFrame f with ax := (decodeFrame f).ax ^^^ 1 } ∧
    decodeFrame { f with b5 := f.b5 ^^^ 0x08#8 } = { decodeFrame f with ax := (decodeFrame f).ax ^^^ 2 } ∧
    decodeFrame { f with b5 := f.b5 ^^^ 0x10#8 } = { decodeFrame f with ay := (decodeFrame f).ay ^^^ 1 } ∧
    decodeFrame { f with b5 := f.b5 ^^^ 0x20#8 } = { decodeFrame f with ay := (decodeFrame f).ay ^^^ 2 } ∧
    decodeFrame { f with b5 := f.b5 ^^^ 0x40#8 } = { decodeFrame f with az := (decodeFrame f).az ^^^ 1 } ∧
    decodeFrame { f with b5 := f.b5 ^^^ 0x80#8 } = { decodeFrame f with az := (decodeFrame f).az ^^^ 2 }

/-- R116: the four values of `b[5][1:0]` give the four values of the buttons, whatever the rest of the frame. -/
def Obligations.ButtonsAreIndependent : Prop :=
  ∀ f : Frame,
    (f.b5.extractLsb' 0 2 = 0b00#2 → (decodeFrame f).bc = true ∧ (decodeFrame f).bz = true) ∧
    (f.b5.extractLsb' 0 2 = 0b01#2 → (decodeFrame f).bc = true ∧ (decodeFrame f).bz = false) ∧
    (f.b5.extractLsb' 0 2 = 0b10#2 → (decodeFrame f).bc = false ∧ (decodeFrame f).bz = true) ∧
    (f.b5.extractLsb' 0 2 = 0b11#2 → (decodeFrame f).bc = false ∧ (decodeFrame f).bz = false)

/-! ## The tilt estimator -/

/-- R124: the helper `tilt`. -/
def Obligations.TiltHelper : Prop :=
  ∀ n a b : Int, (a * a + b * b = 0 → tilt n a b = (0x7FC00000#32, true)) ∧
    (a * a + b * b ≠ 0 → tilt n a b = (angle n (a * a + b * b), false))

/-- R125: the sum of squares of two acceleration values is exact, fits 21 bits and is exact in binary32; it is zero
exactly when both are. -/
def Obligations.SumOfSquaresIsExact : Prop :=
  ∀ a b : Accel,
    (a.toNat : Int) * a.toNat ≤ 1046529 ∧ sumSquares a.toNat b.toNat = (a.toNat : Int) * a.toNat + b.toNat * b.toNat ∧
    0 ≤ sumSquares a.toNat b.toNat ∧ sumSquares a.toNat b.toNat ≤ 2093058 ∧
    sumSquares a.toNat b.toNat < 2 ^ 21 ∧ (sumSquares a.toNat b.toNat = 0 ↔ a = 0 ∧ b = 0) ∧
    ∃ w : Word32, isFinite w = true ∧ value w = sumSquares a.toNat b.toNat

/-- R121: `EST`. Without a Report it does nothing; with one it writes the four Orientation registers from the
Report's acceleration values, sets `ORI_VALID`, emits the event and leaves the rest; repeated, it computes the same
values and emits the event again. -/
def Obligations.EstResult : Prop :=
  encode .est = .port12 0x100#12 ∧
  (∀ w : Word12, w.getLsbD 11 = false → w.getLsbD 8 = true → (decodePort w).ops.getLast? = some .est) ∧
  (∀ s : State, s.rptValid = false → exec .est s = .next s) ∧
  ∀ (s : State) (x y z : Accel), s.rptValid = true → s.ax = .holds x → s.ay = .holds y → s.az = .holds z →
    ∃ t, exec .est s = .next t ∧ HoldsEstimate t x y z ∧ t.oriValid = true ∧ t.rptValid = true ∧
      t.trace = s.trace ++ [.orientation t.roll t.rollInv t.pitch t.pitchInv] ∧
      t.idx = s.idx ∧ SameMemory s t ∧ SameReport s t ∧
      exec .est t = .next { t with trace := t.trace ++ [.orientation t.roll t.rollInv t.pitch t.pitchInv] }

/-- R122: the roll computation, which writes `ROLL` and `ROLL_INV` and nothing else. -/
def Obligations.RollResult : Prop :=
  ∀ (s : State) (x y z : Accel), s.ax = .holds x → s.ay = .holds y → s.az = .holds z →
    ∃ t, exec .roll s = .next t ∧
      ((x.toNat : Int) * x.toNat + z.toNat * z.toNat = 0 → t.roll = .holds 0x7FC00000#32 ∧ t.rollInv = .holds true) ∧
      ((x.toNat : Int) * x.toNat + z.toNat * z.toNat ≠ 0 →
        t.roll = .holds (angle y.toNat (x.toNat * x.toNat + z.toNat * z.toNat)) ∧ t.rollInv = .holds false) ∧
      t.pitch = s.pitch ∧ t.pitchInv = s.pitchInv ∧ SameReport s t ∧ SameValid s t ∧ t.idx = s.idx ∧
      SameMemory s t ∧ t.trace = s.trace

/-- R123: the pitch computation, which writes `PITCH` and `PITCH_INV` and nothing else. -/
def Obligations.PitchResult : Prop :=
  ∀ (s : State) (x y z : Accel), s.ax = .holds x → s.ay = .holds y → s.az = .holds z →
    ∃ t, exec .pitch s = .next t ∧
      ((y.toNat : Int) * y.toNat + z.toNat * z.toNat = 0 →
        t.pitch = .holds 0x7FC00000#32 ∧ t.pitchInv = .holds true) ∧
      ((y.toNat : Int) * y.toNat + z.toNat * z.toNat ≠ 0 →
        t.pitch = .holds (angle x.toNat (y.toNat * y.toNat + z.toNat * z.toNat)) ∧ t.pitchInv = .holds false) ∧
      t.roll = s.roll ∧ t.rollInv = s.rollInv ∧ SameReport s t ∧ SameValid s t ∧ t.idx = s.idx ∧
      SameMemory s t ∧ t.trace = s.trace

/-- No value in, no value out (the model's choice for operands no run meets, R38: assumption 1): `ROLL`, `PITCH` and
`EST` with an acceleration register without a value still complete, and leave the angles without one. -/
def Obligations.AnglesOfNoValueHaveNone : Prop :=
  ∀ s : State, s.ax = .noValue ∨ s.ay = .noValue ∨ s.az = .noValue →
    (∃ t, exec .roll s = .next t ∧ t.roll = .noValue ∧ t.rollInv = .noValue ∧ t.pitch = s.pitch ∧
      t.pitchInv = s.pitchInv ∧ SameReport s t ∧ SameValid s t ∧ t.idx = s.idx ∧ SameMemory s t ∧
      t.trace = s.trace) ∧
    (∃ t, exec .pitch s = .next t ∧ t.pitch = .noValue ∧ t.pitchInv = .noValue ∧ t.roll = s.roll ∧
      t.rollInv = s.rollInv ∧ SameReport s t ∧ SameValid s t ∧ t.idx = s.idx ∧ SameMemory s t ∧
      t.trace = s.trace) ∧
    (s.rptValid = true → ∃ t, exec .est s = .next t ∧ t.roll = .noValue ∧ t.rollInv = .noValue ∧
      t.pitch = .noValue ∧ t.pitchInv = .noValue ∧ t.oriValid = true ∧ t.rptValid = true ∧ SameReport s t ∧
      t.idx = s.idx ∧ SameMemory s t)

/-- R126, R127: after an `EST` each angle is invalid, and `QNAN`, exactly when both terms under its root are zero,
whatever the numerator; the four combinations. A valid angle is finite and strictly between -90 and 90. -/
def Obligations.DegenerateDenominators : Prop :=
  ∀ (s : State) (x y z : Accel), s.rptValid = true → s.ax = .holds x → s.ay = .holds y → s.az = .holds z →
    ∃ t r p, exec .est s = .next t ∧ t.roll = .holds r ∧ t.pitch = .holds p ∧ t.oriValid = true ∧
      t.rollInv = .holds (decide (x = 0 ∧ z = 0)) ∧ t.pitchInv = .holds (decide (y = 0 ∧ z = 0)) ∧
      (x = 0 ∧ z = 0 → r = 0x7FC00000#32) ∧ (¬(x = 0 ∧ z = 0) → inRange r = true) ∧
      (y = 0 ∧ z = 0 → p = 0x7FC00000#32) ∧ (¬(y = 0 ∧ z = 0) → inRange p = true) ∧
      (z ≠ 0 ∨ (x ≠ 0 ∧ y ≠ 0) → t.rollInv = .holds false ∧ t.pitchInv = .holds false) ∧
      (z = 0 ∧ x = 0 ∧ y ≠ 0 → t.rollInv = .holds true ∧ t.pitchInv = .holds false ∧ p = 0#32) ∧
      (z = 0 ∧ y = 0 ∧ x ≠ 0 → t.rollInv = .holds false ∧ t.pitchInv = .holds true ∧ r = 0#32) ∧
      (x = 0 ∧ y = 0 ∧ z = 0 → t.rollInv = .holds true ∧ t.pitchInv = .holds true)

/-- R132, R133, R134: the block's angle arithmetic has the properties ZERO, RANGE and ODD; so an angle register is
a NaN exactly when its flag says invalid. -/
def Obligations.AngleHasItsNamedProperties : Prop :=
  NumericsZero angle ∧ NumericsRange angle ∧ NumericsOdd angle ∧
  ∀ n a b : Int, isNaN (tilt n a b).1 = (tilt n a b).2

/-- The model fixes nothing of the open arithmetic beyond the named properties (R130): holding any free arithmetic
to them gives one that has them, and leaves one that has them as it is (the model's own form: assumption 2). -/
def Obligations.EveryAdmissibleArithmeticIsReached : Prop :=
  (∀ raw, NumericsZero (limitAngle raw) ∧ NumericsRange (limitAngle raw) ∧ NumericsOdd (limitAngle raw)) ∧
  ∀ f, NumericsZero f → NumericsRange f → NumericsOdd f → ∀ n q, 0 < q → limitAngle f n q = f n q

/-- R134 with R136, for the function `estimate` on all integers: negating `x` negates pitch and leaves roll
unchanged; negating `y` the other way about; negating `z` changes neither. -/
def Obligations.EstimateIsAntisymmetric : Prop :=
  NumericsOdd angle ∧ ∀ x y z : Int,
    (estimate (-x) y z).1 = (estimate x y z).1 ∧ (estimate (-x) y z).2.2 = (estimate x y z).2.2 ∧
    (x ≠ 0 → (estimate x y z).2.2 = false →
      (estimate (-x) y z).2.1 = (estimate x y z).2.1 ^^^ 0x80000000#32 ∧
      value (estimate (-x) y z).2.1 = -value (estimate x y z).2.1) ∧
    (estimate x (-y) z).2 = (estimate x y z).2 ∧ (estimate x (-y) z).1.2 = (estimate x y z).1.2 ∧
    (y ≠ 0 → (estimate x y z).1.2 = false →
      (estimate x (-y) z).1.1 = (estimate x y z).1.1 ^^^ 0x80000000#32 ∧
      value (estimate x (-y) z).1.1 = -value (estimate x y z).1.1) ∧
    estimate x y (-z) = estimate x y z

/-- R136: the angle depends on the root terms only through their exact sum of squares. -/
def Obligations.AnglesDependOnTheSumOnly : Prop :=
  ∀ n a b : Int, tilt n a b = tilt n b a ∧ tilt n a b = tilt n (-a) b ∧ tilt n a b = tilt n a (-b) ∧
    ∀ c d : Int, a * a + b * b = c * c + d * d → tilt n a b = tilt n c d

/-- R135: the block's arithmetic has property ACC with the least bound, and no smaller bound serves; the bound is a
non-negative number of degrees. That `TILT_EPS` is taken as the least bound is the model's choice (assumption 8). -/
def Obligations.AccuracyBoundExists : Prop :=
  0 ≤ tiltEps ∧ NumericsAcc tiltEps angle ∧ ∀ eps, NumericsAcc eps angle → tiltEps ≤ eps

/-- R135, R138: the nearest binary32 number to an ideal angle is within `2^-18` degrees of it, so that `2^-18`
serves as `TILT_EPS` for the reference numerics. -/
def Obligations.NearestPatternIsWithinTheBound : Prop :=
  ∀ (n q : Int) (w : Word32), 0 < q → IsNearest w (theta n q) →
    |(value w : ℝ) - theta n q| ≤ 1 / 2 ^ 18

/-- R138: on all integers the reference numerics are well-defined: the nearest number, ties to an even fraction, is
there and is one pattern only. Which zero stands for an angle that rounds to zero is the model's choice
(assumption 9). -/
def Obligations.ReferenceAnglesAreDetermined : Prop :=
  ∀ n q : Int, 0 < q → IsReferenceAngle n q (angleRef n q) ∧ ∀ w, IsReferenceAngle n q w → w = angleRef n q

/-- R138: the reference numerics have ZERO, ODD, ACC with `2^-18`, and RANGE wherever the ideal angle is at most
89.944, as it is for the block's operands and their negatives; so, held to the named properties, they are an
arithmetic of the block that is `angle_ref` on all of these. V18 and V20: the pattern of 45 degrees. RANGE on other
operands does not hold of them, and which zero is meant is the model's choice (assumption 9). -/
def Obligations.ReferenceNumericsAreAdmissible : Prop :=
  NumericsZero angleRef ∧ NumericsOdd angleRef ∧ NumericsAcc (1 / 2 ^ 18) angleRef ∧
  (∀ n q, 0 < q → |theta n q| ≤ 89.944 → inRange (angleRef n q) = true) ∧
  (∀ n q, InReferenceDomain n → 0 < q → |theta n q| ≤ 89.944) ∧
  IsReference (limitAngle angleRef) ∧ NumericsZero (limitAngle angleRef) ∧ NumericsRange (limitAngle angleRef) ∧
  NumericsOdd (limitAngle angleRef) ∧
  (∀ f, IsReference f → tiltWith f 5 3 4 = (0x42340000#32, false))

/-- R137: with the block's operands every valid angle is `+0.0` or a positive finite number below 90, for every
angle arithmetic with ZERO, RANGE and an accuracy bound below `θ(1, 2093058)`. -/
def Obligations.ValidAnglesAreNotNegative : Prop :=
  ∀ (f : Int → Int → Word32) (eps : ℝ), NumericsZero f → NumericsRange f → NumericsAcc eps f →
    eps < theta 1 2093058 →
    ∀ n a b : Accel, (tiltWith f n.toNat a.toNat b.toNat).2 = false →
      isFinite (tiltWith f n.toNat a.toNat b.toNat).1 = true ∧
      value (tiltWith f n.toNat a.toNat b.toNat).1 < 90 ∧
      (n = 0 → (tiltWith f n.toNat a.toNat b.toNat).1 = 0#32) ∧
      (n ≠ 0 → 0 < value (tiltWith f n.toNat a.toNat b.toNat).1 ∧
        signBit (tiltWith f n.toNat a.toNat b.toNat).1 = false)

/-- R11, R137: the ideal angle lies in the open interval (-90, 90), is zero for a zero numerator, and for the
block's operands lies in `[0, θ(1023, 1)]`. -/
def Obligations.IdealAngleRange : Prop :=
  (∀ n q : Int, 0 < q → -90 < theta n q ∧ theta n q < 90) ∧ (∀ q : Int, theta 0 q = 0) ∧
  ∀ n q : Int, 0 ≤ n → n ≤ 1023 → 0 < q → 0 ≤ theta n q ∧ theta n q ≤ theta 1023 1

/-- R144: the source's two estimator examples, for every admissible arithmetic. -/
def Obligations.SourceEstimatorExamples : Prop :=
  estimate 0 0 512 = ((0#32, false), (0#32, false)) ∧
  estimate 0 0 0 = ((0x7FC00000#32, true), (0x7FC00000#32, true))

/-- R84, R192: `POLL` from `IDX = 0` estimates the frame it has just pushed. -/
def Obligations.PollEstimatesItsFrame : Prop :=
  ∀ (f : Frame) (s : State), s.idx = 0 →
    ∃ t, perform (f.pushes ++ [.est]) s = .next t ∧ HoldsReport t (decodeFrame f) ∧
      HoldsEstimate t (decodeFrame f).ax (decodeFrame f).ay (decodeFrame f).az ∧ t.rptValid = true ∧
      t.oriValid = true ∧ t.idx = 0 ∧
      t.trace = s.trace ++ [.report t.jx t.jy t.ax t.ay t.az t.bc t.bz] ++
        [.orientation t.roll t.rollInv t.pitch t.pitchInv]

/-! ## The whole machine -/

/-- R15: every instruction, on every state and operand, every step and every run answers a next state; the one
refusal is a consumer's read of a register that holds no value. -/
def Obligations.EveryOperationCompletes : Prop :=
  (∀ (i : Instr) (s : State), ∃ t, exec i s = .next t) ∧ (∀ s : State, ∃ t, step s = .next t) ∧
  (∀ (ops : List Instr) (s : State), ∃ t, perform ops s = .next t) ∧
  ∀ (s : State) (r : OutReg), s.readOutput r = .error (.noValue r) ↔ s.output r = .noValue

/-- A step runs the decoded instruction: the `EST` still owed; else the first operation of the next word, the word
taken and its `EST`, if any, noted; else, with no word at the ports, `IDLE` (the queue is the model's own:
assumption 3). -/
def Obligations.StepRunsTheDecodedInstruction : Prop :=
  (∀ s : State, s.estPending = true → step s = exec .est { s with estPending := false }) ∧
  (∀ (s : State) (w : Word12) (rest : List Word12), s.estPending = false → s.port = w :: rest →
    (decodePort w).first.wellFormed = true ∧
    step s = exec (decodePort w).first { s with port := rest, estPending := (decodePort w).thenEst }) ∧
  ∀ s : State, s.estPending = false → s.port = [] → step s = exec .idle s

/-- A word placed for the next step is what the next step runs: an operation word's first operation; for a frame,
the `PUSH` that completes it, whose Report is `decode` of the frame (the model's own: assumptions 3 and 6). -/
def Obligations.PlacedWordsRunNext : Prop :=
  (∀ (s : State) (w : Word12),
    step (s.withFetchWord 16 w.toNat) = exec (decodePort w).first { s with estPending := (decodePort w).thenEst }) ∧
  ∀ (s : State) (F : Word48), ∃ t, step (s.withFetchWord 48 F.toNat) = .next t ∧
    HoldsReport t (decodeFrame (Frame.ofWord F)) ∧ HoldsFrame t (Frame.ofWord F) ∧ t.rptValid = true ∧
    t.idx = 0 ∧ t.port = s.port

/-- No instruction changes what the host has asked for: the queue and the owed `EST` are the model's own, outside
the block (assumption 3). -/
def Obligations.RequestsAreTheHosts : Prop :=
  ∀ (i : Instr) (s t : State), exec i s = .next t → SameRequests s t

/-- R20, "written by": which operations may change which register. -/
def Obligations.RegistersHaveTheirWriters : Prop :=
  ∀ (i : Instr) (s t : State), i.wellFormed = true → exec i s = .next t →
    (t.idx ≠ s.idx → i = .reset ∨ i = .abort ∨ ∃ d, i = .push d) ∧
    (¬SameMemory s t → i = .reset ∨ ∃ d, i = .push d) ∧
    (¬SameReport s t → i = .reset ∨ (s.idx = 5 ∧ ∃ d, i = .push d)) ∧
    (t.rptValid ≠ s.rptValid → i = .reset ∨ (s.idx = 5 ∧ ∃ d, i = .push d)) ∧
    (¬SameOrientation s t → i = .reset ∨ (s.rptValid = true ∧ i = .est)) ∧
    (t.oriValid ≠ s.oriValid → i = .reset ∨ (s.idx = 5 ∧ ∃ d, i = .push d) ∨ (s.rptValid = true ∧ i = .est))

/-- R31, R36: what each operation does to the two valid flags. -/
def Obligations.ValidFlagsFollowTheirRules : Prop :=
  ∀ s : State,
    (∃ t, exec .reset s = .next t ∧ t.rptValid = false ∧ t.oriValid = false) ∧
    (∀ d : Byte, ∃ t, exec (.push d) s = .next t ∧ t.rptValid = (s.rptValid || decide (s.idx = 5)) ∧
      t.oriValid = (s.oriValid && decide (s.idx ≠ 5))) ∧
    (∃ t, exec .est s = .next t ∧ t.rptValid = s.rptValid ∧ t.oriValid = (s.oriValid || s.rptValid)) ∧
    (∃ t, exec .abort s = .next t ∧ SameValid s t) ∧ ∃ t, exec .idle s = .next t ∧ SameValid s t

/-- R13: which operations emit an event, and that it carries the registers' new contents. -/
def Obligations.EventsOfTheOperations : Prop :=
  ∀ (i : Instr) (s : State), i.wellFormed = true → ∃ t, exec i s = .next t ∧
    ((∃ d, i = .push d) → s.idx = 5 → t.trace = s.trace ++ [.report t.jx t.jy t.ax t.ay t.az t.bc t.bz]) ∧
    (i = .est → s.rptValid = true →
      t.trace = s.trace ++ [.orientation t.roll t.rollInv t.pitch t.pitchInv]) ∧
    (¬(∃ d, i = .push d ∧ s.idx = 5) → ¬(i = .est ∧ s.rptValid = true) → t.trace = s.trace)

/-- R39 with R31, R34 to R36, R38: the invariant of every run is kept by every step, from every state that has
it. -/
def Obligations.StepKeepsTheInvariant : Prop :=
  ∀ s : State, RunInvariant s → ∃ t, step s = .next t ∧ RunInvariant t

/-- The invariant holds right after reset, and whatever the host asks for. -/
def Obligations.ResetMeetsTheInvariant : Prop :=
  RunInvariant State.reset ∧ ∀ (s : State) (w : Word12), RunInvariant s → RunInvariant (s.request w)

/-- R39: after every operation of every run. A run begins with `RESET`, from any state whose past events carry
values (before the first `RESET` the trace is empty). -/
def Obligations.EveryRunMeetsTheInvariant : Prop :=
  ∀ (ops : List Instr) (s : State), (∀ i ∈ ops, i.wellFormed = true) → (∀ e ∈ s.trace, eventHeld e = true) →
    ∃ t, perform (.reset :: ops) s = .next t ∧ RunInvariant t

/-- R60, R180: the block's registers after a run, and the events of the run, are functions of its operations and of
nothing else. -/
def Obligations.RunsDependOnTheirOperationsOnly : Prop :=
  ∀ (ops : List Instr) (s t : State), ∃ s' t' events,
    perform (.reset :: ops) s = .next s' ∧ perform (.reset :: ops) t = .next t' ∧ blockOf s' = blockOf t' ∧
      s'.trace = s.trace ++ events ∧ t'.trace = t.trace ++ events

/-- R37: a consumer's read gives a number exactly when the register holds a value, and is refused by name
otherwise. -/
def Obligations.ReadsOfNoValueAreRefused : Prop :=
  ∀ (s : State) (r : OutReg),
    (s.output r = .noValue → s.readOutput r = .error (.noValue r)) ∧
    (∀ n, s.output r = .holds n → s.readOutput r = .ok n) ∧
    (s.readOutput .rptValid = .ok s.rptValid.toNat ∧ s.readOutput .oriValid = .ok s.oriValid.toNat)

/-- R38, R189, R39 (b): in every state of a run, a consumer that keeps its duty is never refused, and the numbers it
reads are within their widths. -/
def Obligations.PermittedReadsAreAnswered : Prop :=
  ∀ (s : State) (r : OutReg), RunInvariant s → mayRead s r = true →
    ∃ n, s.readOutput r = .ok n ∧ n < 2 ^ 32 ∧
      (r = .jx ∨ r = .jy → n < 256) ∧ (r = .ax ∨ r = .ay ∨ r = .az → n < 1024) ∧
      (r = .bc ∨ r = .bz ∨ r = .rollInv ∨ r = .pitchInv ∨ r = .rptValid ∨ r = .oriValid → n < 2)

/-- R145, R151: the code of `InvalidOrientation` right after an `EST`. -/
def Obligations.InvalidOrientationCode : Prop :=
  ∀ (s : State) (x y z : Accel), s.rptValid = true → s.ax = .holds x → s.ay = .holds y → s.az = .holds z →
    ∃ t, exec .est s = .next t ∧
      (z ≠ 0 ∨ (x ≠ 0 ∧ y ≠ 0) → t.invalidOrientation = none) ∧
      (z = 0 ∧ x = 0 ∧ y ≠ 0 → t.invalidOrientation = some (true, false)) ∧
      (z = 0 ∧ y = 0 ∧ x ≠ 0 → t.invalidOrientation = some (false, true)) ∧
      (x = 0 ∧ y = 0 ∧ z = 0 → t.invalidOrientation = some (true, true))
end

