-- ==== Sys2Proof/Laws/State.lean ====
section
/-! SUPPORT. One lemma per field per update of the state, and the equations of `Held`. -/

namespace Sys2Proof.Held

variable {α β γ δ : Type}

@[simp] theorem map_noValue (f : α → β) : (noValue : Held α).map f = noValue := rfl
@[simp] theorem map_holds (f : α → β) (v : α) : (holds v).map f = holds (f v) := rfl
@[simp] theorem map2_holds (f : α → β → γ) (a : α) (b : β) :
    map2 f (holds a) (holds b) = holds (f a b) := rfl
@[simp] theorem map2_noValue_left (f : α → β → γ) (b : Held β) : map2 f noValue b = noValue := rfl
@[simp] theorem map2_noValue_right (f : α → β → γ) (a : Held α) : map2 f a noValue = noValue := by
  cases a <;> rfl
@[simp] theorem map3_holds (f : α → β → γ → δ) (a : α) (b : β) (c : γ) :
    map3 f (holds a) (holds b) (holds c) = holds (f a b c) := rfl
@[simp] theorem map3_noValue_first (f : α → β → γ → δ) (b : Held β) (c : Held γ) :
    map3 f noValue b c = noValue := rfl
@[simp] theorem isHeld_noValue : (noValue : Held α).isHeld = false := rfl
@[simp] theorem isHeld_holds (v : α) : (holds v).isHeld = true := rfl

/-- A register contains a value exactly when `isHeld` says so. -/
theorem isHeld_iff (h : Held α) : h.isHeld = true ↔ ∃ v, h = holds v := by
  cases h <;> simp

end Sys2Proof.Held

namespace Sys2Proof.Machine

variable (s : State)

/-! `State.memWrite` -/

@[simp] theorem State.memWrite_idx (i : Fin 6) (v : Byte) : (s.memWrite i v).idx = s.idx := rfl
@[simp] theorem State.memWrite_fb (i : Fin 6) (v : Byte) : (s.memWrite i v).fb = s.fb.write i.val v := rfl
@[simp] theorem State.memWrite_jx (i : Fin 6) (v : Byte) : (s.memWrite i v).jx = s.jx := rfl
@[simp] theorem State.memWrite_jy (i : Fin 6) (v : Byte) : (s.memWrite i v).jy = s.jy := rfl
@[simp] theorem State.memWrite_ax (i : Fin 6) (v : Byte) : (s.memWrite i v).ax = s.ax := rfl
@[simp] theorem State.memWrite_ay (i : Fin 6) (v : Byte) : (s.memWrite i v).ay = s.ay := rfl
@[simp] theorem State.memWrite_az (i : Fin 6) (v : Byte) : (s.memWrite i v).az = s.az := rfl
@[simp] theorem State.memWrite_bc (i : Fin 6) (v : Byte) : (s.memWrite i v).bc = s.bc := rfl
@[simp] theorem State.memWrite_bz (i : Fin 6) (v : Byte) : (s.memWrite i v).bz = s.bz := rfl
@[simp] theorem State.memWrite_rptValid (i : Fin 6) (v : Byte) : (s.memWrite i v).rptValid = s.rptValid := rfl
@[simp] theorem State.memWrite_roll (i : Fin 6) (v : Byte) : (s.memWrite i v).roll = s.roll := rfl
@[simp] theorem State.memWrite_pitch (i : Fin 6) (v : Byte) : (s.memWrite i v).pitch = s.pitch := rfl
@[simp] theorem State.memWrite_rollInv (i : Fin 6) (v : Byte) : (s.memWrite i v).rollInv = s.rollInv := rfl
@[simp] theorem State.memWrite_pitchInv (i : Fin 6) (v : Byte) : (s.memWrite i v).pitchInv = s.pitchInv := rfl
@[simp] theorem State.memWrite_oriValid (i : Fin 6) (v : Byte) : (s.memWrite i v).oriValid = s.oriValid := rfl
@[simp] theorem State.memWrite_port (i : Fin 6) (v : Byte) : (s.memWrite i v).port = s.port := rfl
@[simp] theorem State.memWrite_estPending (i : Fin 6) (v : Byte) :
    (s.memWrite i v).estPending =
      s.estPending := rfl
@[simp] theorem State.memWrite_trace (i : Fin 6) (v : Byte) : (s.memWrite i v).trace = s.trace := rfl

/-! `State.setIdx` -/

@[simp] theorem State.setIdx_idx (i : Fin 6) : (s.setIdx i).idx = i := rfl
@[simp] theorem State.setIdx_fb (i : Fin 6) : (s.setIdx i).fb = s.fb := rfl
@[simp] theorem State.setIdx_jx (i : Fin 6) : (s.setIdx i).jx = s.jx := rfl
@[simp] theorem State.setIdx_jy (i : Fin 6) : (s.setIdx i).jy = s.jy := rfl
@[simp] theorem State.setIdx_ax (i : Fin 6) : (s.setIdx i).ax = s.ax := rfl
@[simp] theorem State.setIdx_ay (i : Fin 6) : (s.setIdx i).ay = s.ay := rfl
@[simp] theorem State.setIdx_az (i : Fin 6) : (s.setIdx i).az = s.az := rfl
@[simp] theorem State.setIdx_bc (i : Fin 6) : (s.setIdx i).bc = s.bc := rfl
@[simp] theorem State.setIdx_bz (i : Fin 6) : (s.setIdx i).bz = s.bz := rfl
@[simp] theorem State.setIdx_rptValid (i : Fin 6) : (s.setIdx i).rptValid = s.rptValid := rfl
@[simp] theorem State.setIdx_roll (i : Fin 6) : (s.setIdx i).roll = s.roll := rfl
@[simp] theorem State.setIdx_pitch (i : Fin 6) : (s.setIdx i).pitch = s.pitch := rfl
@[simp] theorem State.setIdx_rollInv (i : Fin 6) : (s.setIdx i).rollInv = s.rollInv := rfl
@[simp] theorem State.setIdx_pitchInv (i : Fin 6) : (s.setIdx i).pitchInv = s.pitchInv := rfl
@[simp] theorem State.setIdx_oriValid (i : Fin 6) : (s.setIdx i).oriValid = s.oriValid := rfl
@[simp] theorem State.setIdx_port (i : Fin 6) : (s.setIdx i).port = s.port := rfl
@[simp] theorem State.setIdx_estPending (i : Fin 6) : (s.setIdx i).estPending = s.estPending := rfl
@[simp] theorem State.setIdx_trace (i : Fin 6) : (s.setIdx i).trace = s.trace := rfl

/-! `State.emit` -/

@[simp] theorem State.emit_idx (e : Event) : (s.emit e).idx = s.idx := rfl
@[simp] theorem State.emit_fb (e : Event) : (s.emit e).fb = s.fb := rfl
@[simp] theorem State.emit_jx (e : Event) : (s.emit e).jx = s.jx := rfl
@[simp] theorem State.emit_jy (e : Event) : (s.emit e).jy = s.jy := rfl
@[simp] theorem State.emit_ax (e : Event) : (s.emit e).ax = s.ax := rfl
@[simp] theorem State.emit_ay (e : Event) : (s.emit e).ay = s.ay := rfl
@[simp] theorem State.emit_az (e : Event) : (s.emit e).az = s.az := rfl
@[simp] theorem State.emit_bc (e : Event) : (s.emit e).bc = s.bc := rfl
@[simp] theorem State.emit_bz (e : Event) : (s.emit e).bz = s.bz := rfl
@[simp] theorem State.emit_rptValid (e : Event) : (s.emit e).rptValid = s.rptValid := rfl
@[simp] theorem State.emit_roll (e : Event) : (s.emit e).roll = s.roll := rfl
@[simp] theorem State.emit_pitch (e : Event) : (s.emit e).pitch = s.pitch := rfl
@[simp] theorem State.emit_rollInv (e : Event) : (s.emit e).rollInv = s.rollInv := rfl
@[simp] theorem State.emit_pitchInv (e : Event) : (s.emit e).pitchInv = s.pitchInv := rfl
@[simp] theorem State.emit_oriValid (e : Event) : (s.emit e).oriValid = s.oriValid := rfl
@[simp] theorem State.emit_port (e : Event) : (s.emit e).port = s.port := rfl
@[simp] theorem State.emit_estPending (e : Event) : (s.emit e).estPending = s.estPending := rfl
@[simp] theorem State.emit_trace (e : Event) : (s.emit e).trace = s.trace ++ [e] := rfl

/-! `State.writeJx` -/

@[simp] theorem State.writeJx_idx (b0 : Held Byte) : (s.writeJx b0).idx = s.idx := rfl
@[simp] theorem State.writeJx_fb (b0 : Held Byte) : (s.writeJx b0).fb = s.fb := rfl
@[simp] theorem State.writeJx_jx (b0 : Held Byte) : (s.writeJx b0).jx = b0 := rfl
@[simp] theorem State.writeJx_jy (b0 : Held Byte) : (s.writeJx b0).jy = s.jy := rfl
@[simp] theorem State.writeJx_ax (b0 : Held Byte) : (s.writeJx b0).ax = s.ax := rfl
@[simp] theorem State.writeJx_ay (b0 : Held Byte) : (s.writeJx b0).ay = s.ay := rfl
@[simp] theorem State.writeJx_az (b0 : Held Byte) : (s.writeJx b0).az = s.az := rfl
@[simp] theorem State.writeJx_bc (b0 : Held Byte) : (s.writeJx b0).bc = s.bc := rfl
@[simp] theorem State.writeJx_bz (b0 : Held Byte) : (s.writeJx b0).bz = s.bz := rfl
@[simp] theorem State.writeJx_rptValid (b0 : Held Byte) : (s.writeJx b0).rptValid = s.rptValid := rfl
@[simp] theorem State.writeJx_roll (b0 : Held Byte) : (s.writeJx b0).roll = s.roll := rfl
@[simp] theorem State.writeJx_pitch (b0 : Held Byte) : (s.writeJx b0).pitch = s.pitch := rfl
@[simp] theorem State.writeJx_rollInv (b0 : Held Byte) : (s.writeJx b0).rollInv = s.rollInv := rfl
@[simp] theorem State.writeJx_pitchInv (b0 : Held Byte) : (s.writeJx b0).pitchInv = s.pitchInv := rfl
@[simp] theorem State.writeJx_oriValid (b0 : Held Byte) : (s.writeJx b0).oriValid = s.oriValid := rfl
@[simp] theorem State.writeJx_port (b0 : Held Byte) : (s.writeJx b0).port = s.port := rfl
@[simp] theorem State.writeJx_estPending (b0 : Held Byte) : (s.writeJx b0).estPending = s.estPending := rfl
@[simp] theorem State.writeJx_trace (b0 : Held Byte) : (s.writeJx b0).trace = s.trace := rfl

/-! `State.writeJy` -/

@[simp] theorem State.writeJy_idx (b1 : Held Byte) : (s.writeJy b1).idx = s.idx := rfl
@[simp] theorem State.writeJy_fb (b1 : Held Byte) : (s.writeJy b1).fb = s.fb := rfl
@[simp] theorem State.writeJy_jx (b1 : Held Byte) : (s.writeJy b1).jx = s.jx := rfl
@[simp] theorem State.writeJy_jy (b1 : Held Byte) : (s.writeJy b1).jy = b1 := rfl
@[simp] theorem State.writeJy_ax (b1 : Held Byte) : (s.writeJy b1).ax = s.ax := rfl
@[simp] theorem State.writeJy_ay (b1 : Held Byte) : (s.writeJy b1).ay = s.ay := rfl
@[simp] theorem State.writeJy_az (b1 : Held Byte) : (s.writeJy b1).az = s.az := rfl
@[simp] theorem State.writeJy_bc (b1 : Held Byte) : (s.writeJy b1).bc = s.bc := rfl
@[simp] theorem State.writeJy_bz (b1 : Held Byte) : (s.writeJy b1).bz = s.bz := rfl
@[simp] theorem State.writeJy_rptValid (b1 : Held Byte) : (s.writeJy b1).rptValid = s.rptValid := rfl
@[simp] theorem State.writeJy_roll (b1 : Held Byte) : (s.writeJy b1).roll = s.roll := rfl
@[simp] theorem State.writeJy_pitch (b1 : Held Byte) : (s.writeJy b1).pitch = s.pitch := rfl
@[simp] theorem State.writeJy_rollInv (b1 : Held Byte) : (s.writeJy b1).rollInv = s.rollInv := rfl
@[simp] theorem State.writeJy_pitchInv (b1 : Held Byte) : (s.writeJy b1).pitchInv = s.pitchInv := rfl
@[simp] theorem State.writeJy_oriValid (b1 : Held Byte) : (s.writeJy b1).oriValid = s.oriValid := rfl
@[simp] theorem State.writeJy_port (b1 : Held Byte) : (s.writeJy b1).port = s.port := rfl
@[simp] theorem State.writeJy_estPending (b1 : Held Byte) : (s.writeJy b1).estPending = s.estPending := rfl
@[simp] theorem State.writeJy_trace (b1 : Held Byte) : (s.writeJy b1).trace = s.trace := rfl

/-! `State.writeAx` -/

@[simp] theorem State.writeAx_idx (b2 b5 : Held Byte) : (s.writeAx b2 b5).idx = s.idx := rfl
@[simp] theorem State.writeAx_fb (b2 b5 : Held Byte) : (s.writeAx b2 b5).fb = s.fb := rfl
@[simp] theorem State.writeAx_jx (b2 b5 : Held Byte) : (s.writeAx b2 b5).jx = s.jx := rfl
@[simp] theorem State.writeAx_jy (b2 b5 : Held Byte) : (s.writeAx b2 b5).jy = s.jy := rfl
@[simp] theorem State.writeAx_ax (b2 b5 : Held Byte) : (s.writeAx b2 b5).ax = Held.map2 accelX b2 b5 := rfl
@[simp] theorem State.writeAx_ay (b2 b5 : Held Byte) : (s.writeAx b2 b5).ay = s.ay := rfl
@[simp] theorem State.writeAx_az (b2 b5 : Held Byte) : (s.writeAx b2 b5).az = s.az := rfl
@[simp] theorem State.writeAx_bc (b2 b5 : Held Byte) : (s.writeAx b2 b5).bc = s.bc := rfl
@[simp] theorem State.writeAx_bz (b2 b5 : Held Byte) : (s.writeAx b2 b5).bz = s.bz := rfl
@[simp] theorem State.writeAx_rptValid (b2 b5 : Held Byte) : (s.writeAx b2 b5).rptValid = s.rptValid := rfl
@[simp] theorem State.writeAx_roll (b2 b5 : Held Byte) : (s.writeAx b2 b5).roll = s.roll := rfl
@[simp] theorem State.writeAx_pitch (b2 b5 : Held Byte) : (s.writeAx b2 b5).pitch = s.pitch := rfl
@[simp] theorem State.writeAx_rollInv (b2 b5 : Held Byte) : (s.writeAx b2 b5).rollInv = s.rollInv := rfl
@[simp] theorem State.writeAx_pitchInv (b2 b5 : Held Byte) : (s.writeAx b2 b5).pitchInv = s.pitchInv := rfl
@[simp] theorem State.writeAx_oriValid (b2 b5 : Held Byte) : (s.writeAx b2 b5).oriValid = s.oriValid := rfl
@[simp] theorem State.writeAx_port (b2 b5 : Held Byte) : (s.writeAx b2 b5).port = s.port := rfl
@[simp] theorem State.writeAx_estPending (b2 b5 : Held Byte) :
    (s.writeAx b2 b5).estPending =
      s.estPending := rfl
@[simp] theorem State.writeAx_trace (b2 b5 : Held Byte) : (s.writeAx b2 b5).trace = s.trace := rfl

/-! `State.writeAy` -/

@[simp] theorem State.writeAy_idx (b3 b5 : Held Byte) : (s.writeAy b3 b5).idx = s.idx := rfl
@[simp] theorem State.writeAy_fb (b3 b5 : Held Byte) : (s.writeAy b3 b5).fb = s.fb := rfl
@[simp] theorem State.writeAy_jx (b3 b5 : Held Byte) : (s.writeAy b3 b5).jx = s.jx := rfl
@[simp] theorem State.writeAy_jy (b3 b5 : Held Byte) : (s.writeAy b3 b5).jy = s.jy := rfl
@[simp] theorem State.writeAy_ax (b3 b5 : Held Byte) : (s.writeAy b3 b5).ax = s.ax := rfl
@[simp] theorem State.writeAy_ay (b3 b5 : Held Byte) : (s.writeAy b3 b5).ay = Held.map2 accelY b3 b5 := rfl
@[simp] theorem State.writeAy_az (b3 b5 : Held Byte) : (s.writeAy b3 b5).az = s.az := rfl
@[simp] theorem State.writeAy_bc (b3 b5 : Held Byte) : (s.writeAy b3 b5).bc = s.bc := rfl
@[simp] theorem State.writeAy_bz (b3 b5 : Held Byte) : (s.writeAy b3 b5).bz = s.bz := rfl
@[simp] theorem State.writeAy_rptValid (b3 b5 : Held Byte) : (s.writeAy b3 b5).rptValid = s.rptValid := rfl
@[simp] theorem State.writeAy_roll (b3 b5 : Held Byte) : (s.writeAy b3 b5).roll = s.roll := rfl
@[simp] theorem State.writeAy_pitch (b3 b5 : Held Byte) : (s.writeAy b3 b5).pitch = s.pitch := rfl
@[simp] theorem State.writeAy_rollInv (b3 b5 : Held Byte) : (s.writeAy b3 b5).rollInv = s.rollInv := rfl
@[simp] theorem State.writeAy_pitchInv (b3 b5 : Held Byte) : (s.writeAy b3 b5).pitchInv = s.pitchInv := rfl
@[simp] theorem State.writeAy_oriValid (b3 b5 : Held Byte) : (s.writeAy b3 b5).oriValid = s.oriValid := rfl
@[simp] theorem State.writeAy_port (b3 b5 : Held Byte) : (s.writeAy b3 b5).port = s.port := rfl
@[simp] theorem State.writeAy_estPending (b3 b5 : Held Byte) :
    (s.writeAy b3 b5).estPending =
      s.estPending := rfl
@[simp] theorem State.writeAy_trace (b3 b5 : Held Byte) : (s.writeAy b3 b5).trace = s.trace := rfl

/-! `State.writeAz` -/

@[simp] theorem State.writeAz_idx (b4 b5 : Held Byte) : (s.writeAz b4 b5).idx = s.idx := rfl
@[simp] theorem State.writeAz_fb (b4 b5 : Held Byte) : (s.writeAz b4 b5).fb = s.fb := rfl
@[simp] theorem State.writeAz_jx (b4 b5 : Held Byte) : (s.writeAz b4 b5).jx = s.jx := rfl
@[simp] theorem State.writeAz_jy (b4 b5 : Held Byte) : (s.writeAz b4 b5).jy = s.jy := rfl
@[simp] theorem State.writeAz_ax (b4 b5 : Held Byte) : (s.writeAz b4 b5).ax = s.ax := rfl
@[simp] theorem State.writeAz_ay (b4 b5 : Held Byte) : (s.writeAz b4 b5).ay = s.ay := rfl
@[simp] theorem State.writeAz_az (b4 b5 : Held Byte) : (s.writeAz b4 b5).az = Held.map2 accelZ b4 b5 := rfl
@[simp] theorem State.writeAz_bc (b4 b5 : Held Byte) : (s.writeAz b4 b5).bc = s.bc := rfl
@[simp] theorem State.writeAz_bz (b4 b5 : Held Byte) : (s.writeAz b4 b5).bz = s.bz := rfl
@[simp] theorem State.writeAz_rptValid (b4 b5 : Held Byte) : (s.writeAz b4 b5).rptValid = s.rptValid := rfl
@[simp] theorem State.writeAz_roll (b4 b5 : Held Byte) : (s.writeAz b4 b5).roll = s.roll := rfl
@[simp] theorem State.writeAz_pitch (b4 b5 : Held Byte) : (s.writeAz b4 b5).pitch = s.pitch := rfl
@[simp] theorem State.writeAz_rollInv (b4 b5 : Held Byte) : (s.writeAz b4 b5).rollInv = s.rollInv := rfl
@[simp] theorem State.writeAz_pitchInv (b4 b5 : Held Byte) : (s.writeAz b4 b5).pitchInv = s.pitchInv := rfl
@[simp] theorem State.writeAz_oriValid (b4 b5 : Held Byte) : (s.writeAz b4 b5).oriValid = s.oriValid := rfl
@[simp] theorem State.writeAz_port (b4 b5 : Held Byte) : (s.writeAz b4 b5).port = s.port := rfl
@[simp] theorem State.writeAz_estPending (b4 b5 : Held Byte) :
    (s.writeAz b4 b5).estPending =
      s.estPending := rfl
@[simp] theorem State.writeAz_trace (b4 b5 : Held Byte) : (s.writeAz b4 b5).trace = s.trace := rfl

/-! `State.writeBc` -/

@[simp] theorem State.writeBc_idx (b5 : Held Byte) : (s.writeBc b5).idx = s.idx := rfl
@[simp] theorem State.writeBc_fb (b5 : Held Byte) : (s.writeBc b5).fb = s.fb := rfl
@[simp] theorem State.writeBc_jx (b5 : Held Byte) : (s.writeBc b5).jx = s.jx := rfl
@[simp] theorem State.writeBc_jy (b5 : Held Byte) : (s.writeBc b5).jy = s.jy := rfl
@[simp] theorem State.writeBc_ax (b5 : Held Byte) : (s.writeBc b5).ax = s.ax := rfl
@[simp] theorem State.writeBc_ay (b5 : Held Byte) : (s.writeBc b5).ay = s.ay := rfl
@[simp] theorem State.writeBc_az (b5 : Held Byte) : (s.writeBc b5).az = s.az := rfl
@[simp] theorem State.writeBc_bc (b5 : Held Byte) : (s.writeBc b5).bc = b5.map buttonC := rfl
@[simp] theorem State.writeBc_bz (b5 : Held Byte) : (s.writeBc b5).bz = s.bz := rfl
@[simp] theorem State.writeBc_rptValid (b5 : Held Byte) : (s.writeBc b5).rptValid = s.rptValid := rfl
@[simp] theorem State.writeBc_roll (b5 : Held Byte) : (s.writeBc b5).roll = s.roll := rfl
@[simp] theorem State.writeBc_pitch (b5 : Held Byte) : (s.writeBc b5).pitch = s.pitch := rfl
@[simp] theorem State.writeBc_rollInv (b5 : Held Byte) : (s.writeBc b5).rollInv = s.rollInv := rfl
@[simp] theorem State.writeBc_pitchInv (b5 : Held Byte) : (s.writeBc b5).pitchInv = s.pitchInv := rfl
@[simp] theorem State.writeBc_oriValid (b5 : Held Byte) : (s.writeBc b5).oriValid = s.oriValid := rfl
@[simp] theorem State.writeBc_port (b5 : Held Byte) : (s.writeBc b5).port = s.port := rfl
@[simp] theorem State.writeBc_estPending (b5 : Held Byte) : (s.writeBc b5).estPending = s.estPending := rfl
@[simp] theorem State.writeBc_trace (b5 : Held Byte) : (s.writeBc b5).trace = s.trace := rfl

/-! `State.writeBz` -/

@[simp] theorem State.writeBz_idx (b5 : Held Byte) : (s.writeBz b5).idx = s.idx := rfl
@[simp] theorem State.writeBz_fb (b5 : Held Byte) : (s.writeBz b5).fb = s.fb := rfl
@[simp] theorem State.writeBz_jx (b5 : Held Byte) : (s.writeBz b5).jx = s.jx := rfl
@[simp] theorem State.writeBz_jy (b5 : Held Byte) : (s.writeBz b5).jy = s.jy := rfl
@[simp] theorem State.writeBz_ax (b5 : Held Byte) : (s.writeBz b5).ax = s.ax := rfl
@[simp] theorem State.writeBz_ay (b5 : Held Byte) : (s.writeBz b5).ay = s.ay := rfl
@[simp] theorem State.writeBz_az (b5 : Held Byte) : (s.writeBz b5).az = s.az := rfl
@[simp] theorem State.writeBz_bc (b5 : Held Byte) : (s.writeBz b5).bc = s.bc := rfl
@[simp] theorem State.writeBz_bz (b5 : Held Byte) : (s.writeBz b5).bz = b5.map buttonZ := rfl
@[simp] theorem State.writeBz_rptValid (b5 : Held Byte) : (s.writeBz b5).rptValid = s.rptValid := rfl
@[simp] theorem State.writeBz_roll (b5 : Held Byte) : (s.writeBz b5).roll = s.roll := rfl
@[simp] theorem State.writeBz_pitch (b5 : Held Byte) : (s.writeBz b5).pitch = s.pitch := rfl
@[simp] theorem State.writeBz_rollInv (b5 : Held Byte) : (s.writeBz b5).rollInv = s.rollInv := rfl
@[simp] theorem State.writeBz_pitchInv (b5 : Held Byte) : (s.writeBz b5).pitchInv = s.pitchInv := rfl
@[simp] theorem State.writeBz_oriValid (b5 : Held Byte) : (s.writeBz b5).oriValid = s.oriValid := rfl
@[simp] theorem State.writeBz_port (b5 : Held Byte) : (s.writeBz b5).port = s.port := rfl
@[simp] theorem State.writeBz_estPending (b5 : Held Byte) : (s.writeBz b5).estPending = s.estPending := rfl
@[simp] theorem State.writeBz_trace (b5 : Held Byte) : (s.writeBz b5).trace = s.trace := rfl

/-! `State.newReportFlags` -/

@[simp] theorem State.newReportFlags_idx : (s.newReportFlags).idx = s.idx := rfl
@[simp] theorem State.newReportFlags_fb : (s.newReportFlags).fb = s.fb := rfl
@[simp] theorem State.newReportFlags_jx : (s.newReportFlags).jx = s.jx := rfl
@[simp] theorem State.newReportFlags_jy : (s.newReportFlags).jy = s.jy := rfl
@[simp] theorem State.newReportFlags_ax : (s.newReportFlags).ax = s.ax := rfl
@[simp] theorem State.newReportFlags_ay : (s.newReportFlags).ay = s.ay := rfl
@[simp] theorem State.newReportFlags_az : (s.newReportFlags).az = s.az := rfl
@[simp] theorem State.newReportFlags_bc : (s.newReportFlags).bc = s.bc := rfl
@[simp] theorem State.newReportFlags_bz : (s.newReportFlags).bz = s.bz := rfl
@[simp] theorem State.newReportFlags_rptValid : (s.newReportFlags).rptValid = true := rfl
@[simp] theorem State.newReportFlags_roll : (s.newReportFlags).roll = s.roll := rfl
@[simp] theorem State.newReportFlags_pitch : (s.newReportFlags).pitch = s.pitch := rfl
@[simp] theorem State.newReportFlags_rollInv : (s.newReportFlags).rollInv = s.rollInv := rfl
@[simp] theorem State.newReportFlags_pitchInv : (s.newReportFlags).pitchInv = s.pitchInv := rfl
@[simp] theorem State.newReportFlags_oriValid : (s.newReportFlags).oriValid = false := rfl
@[simp] theorem State.newReportFlags_port : (s.newReportFlags).port = s.port := rfl
@[simp] theorem State.newReportFlags_estPending : (s.newReportFlags).estPending = s.estPending := rfl
@[simp] theorem State.newReportFlags_trace : (s.newReportFlags).trace = s.trace := rfl

/-! `State.newOrientationFlag` -/

@[simp] theorem State.newOrientationFlag_idx : (s.newOrientationFlag).idx = s.idx := rfl
@[simp] theorem State.newOrientationFlag_fb : (s.newOrientationFlag).fb = s.fb := rfl
@[simp] theorem State.newOrientationFlag_jx : (s.newOrientationFlag).jx = s.jx := rfl
@[simp] theorem State.newOrientationFlag_jy : (s.newOrientationFlag).jy = s.jy := rfl
@[simp] theorem State.newOrientationFlag_ax : (s.newOrientationFlag).ax = s.ax := rfl
@[simp] theorem State.newOrientationFlag_ay : (s.newOrientationFlag).ay = s.ay := rfl
@[simp] theorem State.newOrientationFlag_az : (s.newOrientationFlag).az = s.az := rfl
@[simp] theorem State.newOrientationFlag_bc : (s.newOrientationFlag).bc = s.bc := rfl
@[simp] theorem State.newOrientationFlag_bz : (s.newOrientationFlag).bz = s.bz := rfl
@[simp] theorem State.newOrientationFlag_rptValid : (s.newOrientationFlag).rptValid = s.rptValid := rfl
@[simp] theorem State.newOrientationFlag_roll : (s.newOrientationFlag).roll = s.roll := rfl
@[simp] theorem State.newOrientationFlag_pitch : (s.newOrientationFlag).pitch = s.pitch := rfl
@[simp] theorem State.newOrientationFlag_rollInv : (s.newOrientationFlag).rollInv = s.rollInv := rfl
@[simp] theorem State.newOrientationFlag_pitchInv : (s.newOrientationFlag).pitchInv = s.pitchInv := rfl
@[simp] theorem State.newOrientationFlag_oriValid : (s.newOrientationFlag).oriValid = true := rfl
@[simp] theorem State.newOrientationFlag_port : (s.newOrientationFlag).port = s.port := rfl
@[simp] theorem State.newOrientationFlag_estPending : (s.newOrientationFlag).estPending = s.estPending := rfl
@[simp] theorem State.newOrientationFlag_trace : (s.newOrientationFlag).trace = s.trace := rfl

/-! `State.decodeStep` -/

@[simp] theorem State.decodeStep_idx (b0 b1 b2 b3 b4 b5 : Held Byte) :
    (s.decodeStep b0 b1 b2 b3 b4 b5).idx =
      s.idx := rfl
@[simp] theorem State.decodeStep_fb (b0 b1 b2 b3 b4 b5 : Held Byte) :
    (s.decodeStep b0 b1 b2 b3 b4 b5).fb =
      s.fb := rfl
@[simp] theorem State.decodeStep_jx (b0 b1 b2 b3 b4 b5 : Held Byte) :
    (s.decodeStep b0 b1 b2 b3 b4 b5).jx =
      b0 := rfl
@[simp] theorem State.decodeStep_jy (b0 b1 b2 b3 b4 b5 : Held Byte) :
    (s.decodeStep b0 b1 b2 b3 b4 b5).jy =
      b1 := rfl
@[simp] theorem State.decodeStep_ax (b0 b1 b2 b3 b4 b5 : Held Byte) :
    (s.decodeStep b0 b1 b2 b3 b4 b5).ax =
      Held.map2 accelX b2 b5 := rfl
@[simp] theorem State.decodeStep_ay (b0 b1 b2 b3 b4 b5 : Held Byte) :
    (s.decodeStep b0 b1 b2 b3 b4 b5).ay =
      Held.map2 accelY b3 b5 := rfl
@[simp] theorem State.decodeStep_az (b0 b1 b2 b3 b4 b5 : Held Byte) :
    (s.decodeStep b0 b1 b2 b3 b4 b5).az =
      Held.map2 accelZ b4 b5 := rfl
@[simp] theorem State.decodeStep_bc (b0 b1 b2 b3 b4 b5 : Held Byte) :
    (s.decodeStep b0 b1 b2 b3 b4 b5).bc =
      b5.map buttonC := rfl
@[simp] theorem State.decodeStep_bz (b0 b1 b2 b3 b4 b5 : Held Byte) :
    (s.decodeStep b0 b1 b2 b3 b4 b5).bz =
      b5.map buttonZ := rfl
@[simp] theorem State.decodeStep_rptValid (b0 b1 b2 b3 b4 b5 : Held Byte) :
    (s.decodeStep b0 b1 b2 b3 b4 b5).rptValid =
      true := rfl
@[simp] theorem State.decodeStep_roll (b0 b1 b2 b3 b4 b5 : Held Byte) :
    (s.decodeStep b0 b1 b2 b3 b4 b5).roll =
      s.roll := rfl
@[simp] theorem State.decodeStep_pitch (b0 b1 b2 b3 b4 b5 : Held Byte) :
    (s.decodeStep b0 b1 b2 b3 b4 b5).pitch =
      s.pitch := rfl
@[simp] theorem State.decodeStep_rollInv (b0 b1 b2 b3 b4 b5 : Held Byte) :
    (s.decodeStep b0 b1 b2 b3 b4 b5).rollInv =
      s.rollInv := rfl
@[simp] theorem State.decodeStep_pitchInv (b0 b1 b2 b3 b4 b5 : Held Byte) :
    (s.decodeStep b0 b1 b2 b3 b4 b5).pitchInv =
      s.pitchInv := rfl
@[simp] theorem State.decodeStep_oriValid (b0 b1 b2 b3 b4 b5 : Held Byte) :
    (s.decodeStep b0 b1 b2 b3 b4 b5).oriValid =
      false := rfl
@[simp] theorem State.decodeStep_port (b0 b1 b2 b3 b4 b5 : Held Byte) :
    (s.decodeStep b0 b1 b2 b3 b4 b5).port =
      s.port := rfl
@[simp] theorem State.decodeStep_estPending (b0 b1 b2 b3 b4 b5 : Held Byte) :
    (s.decodeStep b0 b1 b2 b3 b4 b5).estPending =
      s.estPending := rfl
@[simp] theorem State.decodeStep_trace (b0 b1 b2 b3 b4 b5 : Held Byte) :
    (s.decodeStep b0 b1 b2 b3 b4 b5).trace =
      s.trace ++ [.report b0 b1 (Held.map2 accelX b2 b5) (Held.map2 accelY b3 b5)
      (Held.map2 accelZ b4 b5) (b5.map buttonC) (b5.map buttonZ)] := rfl

/-! `State.writeRoll` -/

@[simp] theorem State.writeRoll_idx : (s.writeRoll).idx = s.idx := rfl
@[simp] theorem State.writeRoll_fb : (s.writeRoll).fb = s.fb := rfl
@[simp] theorem State.writeRoll_jx : (s.writeRoll).jx = s.jx := rfl
@[simp] theorem State.writeRoll_jy : (s.writeRoll).jy = s.jy := rfl
@[simp] theorem State.writeRoll_ax : (s.writeRoll).ax = s.ax := rfl
@[simp] theorem State.writeRoll_ay : (s.writeRoll).ay = s.ay := rfl
@[simp] theorem State.writeRoll_az : (s.writeRoll).az = s.az := rfl
@[simp] theorem State.writeRoll_bc : (s.writeRoll).bc = s.bc := rfl
@[simp] theorem State.writeRoll_bz : (s.writeRoll).bz = s.bz := rfl
@[simp] theorem State.writeRoll_rptValid : (s.writeRoll).rptValid = s.rptValid := rfl
@[simp] theorem State.writeRoll_roll :
    (s.writeRoll).roll =
      (Held.map3 tiltAccel s.ay s.ax s.az).map Prod.fst := rfl
@[simp] theorem State.writeRoll_pitch : (s.writeRoll).pitch = s.pitch := rfl
@[simp] theorem State.writeRoll_rollInv :
    (s.writeRoll).rollInv =
      (Held.map3 tiltAccel s.ay s.ax s.az).map Prod.snd := rfl
@[simp] theorem State.writeRoll_pitchInv : (s.writeRoll).pitchInv = s.pitchInv := rfl
@[simp] theorem State.writeRoll_oriValid : (s.writeRoll).oriValid = s.oriValid := rfl
@[simp] theorem State.writeRoll_port : (s.writeRoll).port = s.port := rfl
@[simp] theorem State.writeRoll_estPending : (s.writeRoll).estPending = s.estPending := rfl
@[simp] theorem State.writeRoll_trace : (s.writeRoll).trace = s.trace := rfl

/-! `State.writePitch` -/

@[simp] theorem State.writePitch_idx : (s.writePitch).idx = s.idx := rfl
@[simp] theorem State.writePitch_fb : (s.writePitch).fb = s.fb := rfl
@[simp] theorem State.writePitch_jx : (s.writePitch).jx = s.jx := rfl
@[simp] theorem State.writePitch_jy : (s.writePitch).jy = s.jy := rfl
@[simp] theorem State.writePitch_ax : (s.writePitch).ax = s.ax := rfl
@[simp] theorem State.writePitch_ay : (s.writePitch).ay = s.ay := rfl
@[simp] theorem State.writePitch_az : (s.writePitch).az = s.az := rfl
@[simp] theorem State.writePitch_bc : (s.writePitch).bc = s.bc := rfl
@[simp] theorem State.writePitch_bz : (s.writePitch).bz = s.bz := rfl
@[simp] theorem State.writePitch_rptValid : (s.writePitch).rptValid = s.rptValid := rfl
@[simp] theorem State.writePitch_roll : (s.writePitch).roll = s.roll := rfl
@[simp] theorem State.writePitch_pitch :
    (s.writePitch).pitch =
      (Held.map3 tiltAccel s.ax s.ay s.az).map Prod.fst := rfl
@[simp] theorem State.writePitch_rollInv : (s.writePitch).rollInv = s.rollInv := rfl
@[simp] theorem State.writePitch_pitchInv :
    (s.writePitch).pitchInv =
      (Held.map3 tiltAccel s.ax s.ay s.az).map Prod.snd := rfl
@[simp] theorem State.writePitch_oriValid : (s.writePitch).oriValid = s.oriValid := rfl
@[simp] theorem State.writePitch_port : (s.writePitch).port = s.port := rfl
@[simp] theorem State.writePitch_estPending : (s.writePitch).estPending = s.estPending := rfl
@[simp] theorem State.writePitch_trace : (s.writePitch).trace = s.trace := rfl

/-! `State.reset` -/

@[simp] theorem State.reset_idx : State.reset.idx = 0 := rfl
@[simp] theorem State.reset_fb : State.reset.fb = [] := rfl
@[simp] theorem State.reset_jx : State.reset.jx = .noValue := rfl
@[simp] theorem State.reset_jy : State.reset.jy = .noValue := rfl
@[simp] theorem State.reset_ax : State.reset.ax = .noValue := rfl
@[simp] theorem State.reset_ay : State.reset.ay = .noValue := rfl
@[simp] theorem State.reset_az : State.reset.az = .noValue := rfl
@[simp] theorem State.reset_bc : State.reset.bc = .noValue := rfl
@[simp] theorem State.reset_bz : State.reset.bz = .noValue := rfl
@[simp] theorem State.reset_rptValid : State.reset.rptValid = false := rfl
@[simp] theorem State.reset_roll : State.reset.roll = .noValue := rfl
@[simp] theorem State.reset_pitch : State.reset.pitch = .noValue := rfl
@[simp] theorem State.reset_rollInv : State.reset.rollInv = .noValue := rfl
@[simp] theorem State.reset_pitchInv : State.reset.pitchInv = .noValue := rfl
@[simp] theorem State.reset_oriValid : State.reset.oriValid = false := rfl
@[simp] theorem State.reset_port : State.reset.port = [] := rfl
@[simp] theorem State.reset_estPending : State.reset.estPending = false := rfl
@[simp] theorem State.reset_trace : State.reset.trace = [] := rfl

end Sys2Proof.Machine
end

