-- ==== Sys2Proof/Laws/Memory.lean ====
section
/-! SUPPORT. The frame buffer: what a read gives after a write, and that every operation keeps the canonical form. -/

namespace Sys2Proof.Machine

@[simp] theorem Memory.read_nil (a : Nat) : Memory.read [] a = .noValue := rfl

/-- A read of the address just written gives the byte written. -/
@[simp] theorem Memory.read_write_same (m : Memory) (a : Nat) (v : Byte) : (m.write a v).read a = .holds v := by
  induction m with
  | nil => simp [Memory.write, Memory.read]
  | cons c rest ih =>
    obtain ⟨k, w⟩ := c
    rcases lt_trichotomy a k with h | rfl | h
    · simp [Memory.write, Memory.read, h]
    · simp [Memory.write, Memory.read]
    · simp [Memory.write, Memory.read, ih, h.not_gt, h.ne', h.ne]

/-- A write leaves every other address alone. -/
theorem Memory.read_write_other (m : Memory) {a b : Nat} (v : Byte) (hab : b ≠ a) :
    (m.write a v).read b = m.read b := by
  induction m with
  | nil => simp [Memory.write, Memory.read, hab.symm, Memory.unlisted]
  | cons c rest ih =>
    obtain ⟨k, w⟩ := c
    rcases lt_trichotomy a k with h | rfl | h
    · simp [Memory.write, Memory.read, h, hab.symm]
    · simp [Memory.write, Memory.read, hab.symm]
    · simp [Memory.write, Memory.read, ih, h.not_gt, h.ne']

/-- What a read gives after a write. -/
theorem Memory.read_write (m : Memory) (a b : Nat) (v : Byte) :
    (m.write a v).read b = if b = a then .holds v else m.read b := by
  split
  · simp_all
  · exact m.read_write_other v ‹_›

/-- The addresses after a write: the old ones and the one written. -/
theorem Memory.mem_keys_write (m : Memory) (a : Nat) (v : Byte) (k : Nat) :
    k ∈ (m.write a v).map Prod.fst ↔ k = a ∨ k ∈ m.map Prod.fst := by
  induction m with
  | nil => simp [Memory.write]
  | cons c rest ih =>
    obtain ⟨j, w⟩ := c
    simp only [Memory.write]
    split_ifs with h1 h2
    · simp
    · subst h2; simp
    · simp only [List.map_cons, List.mem_cons, ih]; tauto

theorem Memory.reset_wf : State.reset.fb.wf := by decide

/-- A write of an address of the space keeps the canonical form. -/
theorem Memory.write_wf {m : Memory} (hm : m.wf) {a : Nat} (ha : a < 6) (v : Byte) : (m.write a v).wf := by
  have space : ∀ k ∈ (m.write a v).map Prod.fst, k < 6 := by
    intro k hk
    rcases (m.mem_keys_write a v k).1 hk with rfl | hk
    · exact ha
    · obtain ⟨c, hc, rfl⟩ := List.mem_map.1 hk
      exact hm.2 c hc
  refine ⟨?_, fun c hc => space c.1 (List.mem_map_of_mem hc)⟩
  have rising := hm.1
  clear space hm
  induction m with
  | nil => simp [Memory.write]
  | cons c rest ih =>
    obtain ⟨k, w⟩ := c
    obtain ⟨first, tail⟩ := List.pairwise_cons.1 rising
    simp only [Memory.write]
    split_ifs with h1 h2
    · refine List.pairwise_cons.2 ⟨?_, rising⟩
      intro j hj
      rcases List.mem_cons.1 hj with rfl | hj
      · exact h1
      · exact h1.trans (first j hj)
    · subst h2
      exact List.pairwise_cons.2 ⟨first, tail⟩
    · refine List.pairwise_cons.2 ⟨?_, ih tail⟩
      intro j hj
      rcases (Memory.mem_keys_write rest a v j).1 hj with rfl | hj
      · exact lt_of_le_of_ne (not_lt.1 h1) (Ne.symm h2)
      · exact first j hj

/-- `MemWrite` keeps the canonical form: its address is `IDX` (spec/20_memory.md R50). -/
theorem State.memWrite_wf {s : State} (hm : s.fb.wf) (i : Fin 6) (v : Byte) : (s.memWrite i v).fb.wf :=
  Memory.write_wf hm i.isLt v

/-- Placing a frame keeps the canonical form. -/
theorem State.placeFrame_wf {s : State} (hm : s.fb.wf) (f : Frame) : (s.placeFrame f).fb.wf :=
  Memory.write_wf (Memory.write_wf (Memory.write_wf (Memory.write_wf (Memory.write_wf hm (by decide) _)
    (by decide) _) (by decide) _) (by decide) _) (by decide) _

@[simp] theorem State.memRead_memWrite_same (s : State) (i : Fin 6) (v : Byte) :
    (s.memWrite i v).memRead i = .holds v := Memory.read_write_same _ _ _

theorem State.memRead_memWrite_other (s : State) {i j : Fin 6} (v : Byte) (h : j ≠ i) :
    (s.memWrite i v).memRead j = s.memRead j :=
  Memory.read_write_other _ v (fun e => h (Fin.ext e))

end Sys2Proof.Machine
end

