-- ==== Sys2Proof/Laws/Exec.lean ====
section
/-! SUPPORT. What each meaning that has a case in it can do, said once, and what fetching the next operation does. -/

namespace Sys2Proof.Machine

/-- The index after a `PUSH` below 5. -/
theorem nextIdx_of_ne {i : Fin 6} (h : i ≠ 5) : nextIdx i = i + 1 := by simp [nextIdx, h]

@[simp] theorem nextIdx_five : nextIdx 5 = 0 := rfl

/-- The index counts modulo 6 (spec/40_frame_ops.md R95). -/
theorem nextIdx_val (i : Fin 6) : (nextIdx i).val = (i.val + 1) % 6 := by
  revert i; decide

/-- A `PUSH` either buffers a byte or completes the frame. -/
theorem execPush_cases {d : Byte} {s : State} {o : Host.Outcome State Fault Refusal} (h : execPush d s = o) :
    (s.idx ≠ 5 ∧ o = .next ((s.memWrite s.idx d).setIdx (s.idx + 1))) ∨
    (s.idx = 5 ∧ o = .next (((s.memWrite 5 d).decodeStep (s.memRead 0) (s.memRead 1) (s.memRead 2)
      (s.memRead 3) (s.memRead 4) (.holds d)).setIdx 0)) := by
  subst h
  by_cases h5 : s.idx = 5
  · refine .inr ⟨h5, ?_⟩
    simp only [execPush, h5, if_true, State.memRead_memWrite_same]
    rw [State.memRead_memWrite_other s d (j := 0) (by decide), State.memRead_memWrite_other s d (j := 1) (by decide),
      State.memRead_memWrite_other s d (j := 2) (by decide), State.memRead_memWrite_other s d (j := 3) (by decide),
      State.memRead_memWrite_other s d (j := 4) (by decide)]
  · exact .inl ⟨h5, by simp [execPush, h5, nextIdx]⟩

/-- An `EST` either computes both angles or does nothing. -/
theorem execEst_cases {s : State} {o : Host.Outcome State Fault Refusal} (h : execEst s = o) :
    (s.rptValid = false ∧ o = .next s) ∨
    (s.rptValid = true ∧ o = .next (s.writeRoll.writePitch.newOrientationFlag.emit
      s.writeRoll.writePitch.newOrientationFlag.orientationEvent)) := by
  subst h
  cases hv : s.rptValid
  · exact .inl ⟨rfl, by simp [execEst, hv]⟩
  · exact .inr ⟨rfl, by simp [execEst, hv]⟩

/-- The angle registers after both computations, when the Report registers contain acceleration values. -/
theorem writeRoll_writePitch_holds {s : State} {x y z : Accel} (hx : s.ax = .holds x) (hy : s.ay = .holds y)
    (hz : s.az = .holds z) : HoldsEstimate s.writeRoll.writePitch x y z := by
  simp [HoldsEstimate, hx, hy, hz]

theorem nextOperation_pending {s : State} (h : s.estPending = true) :
    s.nextOperation = (.est, { s with estPending := false }) := by simp [State.nextOperation, h]

theorem nextOperation_empty {s : State} (h : s.estPending = false) (hp : s.port = []) :
    s.nextOperation = (.idle, s) := by simp [State.nextOperation, h, hp]

theorem nextOperation_word {s : State} {w : Word12} {rest : List Word12} (h : s.estPending = false)
    (hp : s.port = w :: rest) :
    s.nextOperation = ((decodePort w).first, { s with port := rest, estPending := (decodePort w).thenEst }) := by
  simp [State.nextOperation, h, hp, State.takeWord]

/-- An operation word starts with one of the five. -/
theorem decodePort_wellFormed (w : Word12) : (decodePort w).first.wellFormed = true := by
  unfold decodePort
  split_ifs <;> rfl

/-- The next operation is always one of the five. -/
theorem nextOperation_wellFormed (s : State) : s.nextOperation.1.wellFormed = true := by
  unfold State.nextOperation
  split_ifs
  · rfl
  · split
    · rfl
    · exact decodePort_wellFormed _

/-- Fetching changes only what the host has asked for. -/
theorem nextOperation_block (s : State) : blockOf s.nextOperation.2 = blockOf s ∧
    s.nextOperation.2.trace = s.trace := by
  unfold State.nextOperation
  split_ifs
  · exact ⟨rfl, rfl⟩
  · split <;> exact ⟨rfl, rfl⟩

end Sys2Proof.Machine
end

