-- ==== Sys2Proof/Laws/Encoding.lean ====
section
/-! SUPPORT. Small facts of the encodings: frame words byte by byte, and the bits of the operation words. -/

namespace Sys2Proof

/-- A frame is read back from its word. -/
@[simp] theorem Frame.ofWord_toWord (f : Frame) : Frame.ofWord f.toWord = f := by
  obtain ⟨b0, b1, b2, b3, b4, b5⟩ := f
  simp only [Frame.ofWord, Frame.toWord, Frame.mk.injEq]
  refine ⟨?_, ?_, ?_, ?_, ?_, ?_⟩ <;>
  · ext i hi
    simp only [BitVec.getElem_extractLsb', BitVec.getLsbD_append]
    interval_cases i <;> simp

/-- The request of the word of `PUSH d`. -/
@[simp] theorem decodePort_pushWord (d : Byte) : decodePort (pushWord d) = ⟨.push d, false⟩ := by
  revert d; decide

end Sys2Proof
end

