-- ==== Sys2Proof/Laws/Numerics.lean ====
section
/-! SUPPORT. Binary32 patterns: the sign flip, the patterns of exact numbers, what the range limit gives, and the
order of patterns and numbers. -/

namespace Sys2Proof.Machine

/-! ## The three fields -/

@[simp] theorem expField_flipSign (w : Word32) : expField (flipSign w) = expField w := by
  unfold expField flipSign
  congr 1
  ext i hi
  simp only [BitVec.getElem_extractLsb', BitVec.getLsbD_xor]
  interval_cases i <;> simp

@[simp] theorem fracField_flipSign (w : Word32) : fracField (flipSign w) = fracField w := by
  unfold fracField flipSign
  congr 1
  ext i hi
  simp only [BitVec.getElem_extractLsb', BitVec.getLsbD_xor]
  interval_cases i <;> simp

@[simp] theorem signBit_flipSign (w : Word32) : signBit (flipSign w) = !signBit w := by
  simp [signBit, flipSign]

@[simp] theorem isFinite_flipSign (w : Word32) : isFinite (flipSign w) = isFinite w := by simp [isFinite]

/-- Flipping the sign bit negates the number. -/
@[simp] theorem value_flipSign (w : Word32) : value (flipSign w) = -value w := by
  unfold value
  simp only [signBit_flipSign, expField_flipSign, fracField_flipSign]
  cases signBit w <;> split <;> simp

@[simp] theorem flipSign_flipSign (w : Word32) : flipSign (flipSign w) = w := by
  simp [flipSign]

/-! ## The range -/

theorem inRange_iff (w : Word32) :
    inRange w = true ↔ isFinite w = true ∧ -90 < value w ∧ value w < 90 := by
  simp [inRange, and_assoc]

theorem value_zero : value 0#32 = 0 := by
  simp [value, expField, fracField]

theorem inRange_zero : inRange 0#32 = true := by
  rw [inRange_iff, value_zero]
  exact ⟨by decide, by norm_num, by norm_num⟩

@[simp] theorem inRange_flipSign (w : Word32) : inRange (flipSign w) = inRange w := by
  rw [Bool.eq_iff_iff, inRange_iff, inRange_iff, isFinite_flipSign, value_flipSign]
  constructor <;> rintro ⟨h, h1, h2⟩ <;> exact ⟨h, by linarith, by linarith⟩

theorem clampRange_inRange (w : Word32) : inRange (clampRange w) = true := by
  unfold clampRange
  split
  · assumption
  · exact inRange_zero

theorem clampRange_of_inRange {w : Word32} (h : inRange w = true) : clampRange w = w := by
  simp [clampRange, h]

theorem qnan_not_finite : isFinite Config.qnan = false := by decide

theorem qnan_isNaN : isNaN Config.qnan = true := by decide

theorem isNaN_of_finite {w : Word32} (h : isFinite w = true) : isNaN w = false := by
  simp_all [isFinite, isNaN]

/-! ## Patterns of exact numbers -/

/-- The pattern with the given exponent and fraction fields, sign positive. -/
def patternOf (e f : Nat) : Word32 := BitVec.ofNat 32 (e * 2 ^ 23 + f)

theorem patternOf_toNat {e f : Nat} (he : e < 255) (hf : f < 2 ^ 23) :
    (patternOf e f).toNat = e * 2 ^ 23 + f := by
  unfold patternOf
  rw [BitVec.toNat_ofNat, Nat.mod_eq_of_lt]
  omega

theorem expField_patternOf {e f : Nat} (he : e < 255) (hf : f < 2 ^ 23) : expField (patternOf e f) = e := by
  unfold expField
  rw [BitVec.extractLsb'_toNat, patternOf_toNat he hf, Nat.shiftRight_eq_div_pow]
  omega

theorem fracField_patternOf {e f : Nat} (he : e < 255) (hf : f < 2 ^ 23) : fracField (patternOf e f) = f := by
  unfold fracField
  rw [BitVec.extractLsb'_toNat, patternOf_toNat he hf, Nat.shiftRight_eq_div_pow]
  omega

theorem signBit_patternOf {e f : Nat} (he : e < 255) (hf : f < 2 ^ 23) : signBit (patternOf e f) = false := by
  unfold signBit
  rw [BitVec.getLsbD, patternOf_toNat he hf, Nat.testBit_eq_decide_div_mod_eq, decide_eq_false_iff_not]
  omega

/-- Every number `k / 2^shift` with `k` of at most 24 bits has a pattern, with the sign positive. -/
theorem exists_pattern (k shift : Nat) (hk : k < 2 ^ 24) (hs : shift ≤ 100) :
    ∃ w : Word32, isFinite w = true ∧ signBit w = false ∧ value w = (k : Rat) / 2 ^ shift ∧
      (k = 0 → w = 0#32) := by
  rcases Nat.eq_zero_or_pos k with rfl | hpos
  · exact ⟨0#32, by decide, by decide, by rw [value_zero]; simp, fun _ => rfl⟩
  · have hlo : 2 ^ Nat.log2 k ≤ k := Nat.log2_self_le hpos.ne'
    have hhi : k < 2 ^ (Nat.log2 k + 1) := Nat.lt_log2_self
    generalize hL : Nat.log2 k = L at hlo hhi
    have hL23 : L ≤ 23 := by
      by_contra h
      have : 2 ^ 24 ≤ 2 ^ L := Nat.pow_le_pow_right (by norm_num) (by omega)
      omega
    have he : L + 127 - shift < 255 := by omega
    have hf : (k - 2 ^ L) * 2 ^ (23 - L) < 2 ^ 23 := by
      have h1 : k - 2 ^ L < 2 ^ L := by rw [pow_succ] at hhi; omega
      have h2 : 2 ^ L * 2 ^ (23 - L) = 2 ^ 23 := by rw [← pow_add]; congr 1; omega
      rw [← h2]
      exact Nat.mul_lt_mul_of_pos_right h1 (by positivity)
    refine ⟨patternOf (L + 127 - shift) ((k - 2 ^ L) * 2 ^ (23 - L)), ?_, signBit_patternOf he hf, ?_, by omega⟩
    · simp only [isFinite, expField_patternOf he hf, bne_iff_ne]; omega
    · unfold value
      rw [signBit_patternOf he hf, expField_patternOf he hf, fracField_patternOf he hf, if_neg (by omega)]
      have hexp : ((L + 127 - shift : Nat) : Int) - 127 = (L : Int) - shift := by omega
      rw [hexp, zpow_sub₀ (by norm_num), zpow_natCast, zpow_natCast, Nat.cast_mul, Nat.cast_sub hlo]
      have h23 : (2 : Rat) ^ 23 = 2 ^ L * 2 ^ (23 - L) := by rw [← pow_add]; congr 1; omega
      push_cast
      rw [h23]
      field_simp
      simp

/-! ## The order of the positive patterns is the order of their numbers -/

theorem expField_eq (w : Word32) : expField w = w.toNat / 2 ^ 23 % 2 ^ 8 := by
  unfold expField
  rw [BitVec.extractLsb'_toNat, Nat.shiftRight_eq_div_pow]

theorem fracField_eq (w : Word32) : fracField w = w.toNat % 2 ^ 23 := by
  unfold fracField
  rw [BitVec.extractLsb'_toNat, Nat.shiftRight_eq_div_pow]
  simp

theorem signBit_false_iff (w : Word32) : signBit w = false ↔ w.toNat < 2 ^ 31 := by
  have := w.isLt
  unfold signBit
  rw [BitVec.getLsbD, Nat.testBit_eq_decide_div_mod_eq, decide_eq_false_iff_not]
  omega

/-- The positive pattern of a number below `2^31` has that number's fields. -/
theorem toNat_eq_fields {w : Word32} (h : signBit w = false) : w.toNat = expField w * 2 ^ 23 + fracField w := by
  have := (signBit_false_iff w).1 h
  rw [expField_eq, fracField_eq]
  omega

/-- The number of a positive pattern, by its two fields (spec/10_state.md R47). -/
def valueOf (e f : Nat) : Rat :=
  if e = 0 then (2 : Rat) ^ (-126 : Int) * ((f : Rat) / 2 ^ 23) else (2 : Rat) ^ ((e : Int) - 127) * (1 + (f : Rat) / 2 ^ 23)

theorem value_eq_valueOf {w : Word32} (h : signBit w = false) : value w = valueOf (expField w) (fracField w) := by
  simp [value, valueOf, h]

theorem valueOf_nonneg (e f : Nat) : 0 ≤ valueOf e f := by
  unfold valueOf
  split <;> positivity

theorem valueOf_lt_frac {e f g : Nat} (h : f < g) : valueOf e f < valueOf e g := by
  have : (f : Rat) < g := by exact_mod_cast h
  unfold valueOf
  split <;> gcongr

theorem valueOf_lt_succ {e f : Nat} (hf : f < 2 ^ 23) : valueOf e f < valueOf (e + 1) 0 := by
  have h1 : (f : Rat) / 2 ^ 23 < 1 := by
    rw [div_lt_one (by positivity)]; exact_mod_cast hf
  rcases Nat.eq_zero_or_pos e with rfl | he
  · simp only [valueOf, if_true, Nat.cast_zero, zero_add, one_ne_zero, if_false, zero_div, add_zero, mul_one]
    calc (2 : Rat) ^ (-126 : Int) * ((f : Rat) / 2 ^ 23) < 2 ^ (-126 : Int) * 1 := by gcongr
      _ = 2 ^ (((1 : Nat) : Int) - 127) := by norm_num
  · simp only [valueOf, he.ne', Nat.succ_ne_zero, if_false, Nat.cast_zero, zero_div, add_zero, mul_one]
    calc (2 : Rat) ^ ((e : Int) - 127) * (1 + (f : Rat) / 2 ^ 23) < 2 ^ ((e : Int) - 127) * 2 := by
          gcongr; linarith
      _ = 2 ^ (((e + 1 : Nat) : Int) - 127) := by
          rw [← zpow_add_one₀ (by norm_num)]; congr 1; push_cast; ring

theorem valueOf_lt_exp {e e' f g : Nat} (hf : f < 2 ^ 23) (h : e < e') : valueOf e f < valueOf e' g := by
  have zero_le (e g : Nat) : valueOf e 0 ≤ valueOf e g := by
    rcases Nat.eq_zero_or_pos g with rfl | hg
    · exact le_rfl
    · exact (valueOf_lt_frac hg).le
  induction e', h using Nat.le_induction generalizing g with
  | base => exact (valueOf_lt_succ hf).trans_le (zero_le _ _)
  | succ k _ ih =>
    have : valueOf k 0 < valueOf (k + 1) 0 := valueOf_lt_succ (by norm_num)
    have ih' : valueOf e f < valueOf k 0 := ih
    exact (ih'.trans this).trans_le (zero_le _ _)

/-- Among positive patterns, a larger pattern is a larger number. -/
theorem value_lt_of_toNat_lt {v w : Word32} (hv : signBit v = false) (hw : signBit w = false)
    (h : v.toNat < w.toNat) : value v < value w := by
  rw [value_eq_valueOf hv, value_eq_valueOf hw]
  rw [toNat_eq_fields hv, toNat_eq_fields hw] at h
  have hf : fracField v < 2 ^ 23 := by rw [fracField_eq]; exact Nat.mod_lt _ (by norm_num)
  have hg : fracField w < 2 ^ 23 := by rw [fracField_eq]; exact Nat.mod_lt _ (by norm_num)
  rcases Nat.lt_or_ge (expField v) (expField w) with he | he
  · exact valueOf_lt_exp hf he
  · have : expField v = expField w := by omega
    rw [this]
    exact valueOf_lt_frac (by omega)

/-- A positive pattern is the only one of its number with its sign. -/
theorem eq_of_value_eq {v w : Word32} (hv : signBit v = false) (hw : signBit w = false) (h : value v = value w) :
    v = w := by
  rcases Nat.lt_trichotomy v.toNat w.toNat with hlt | heq | hgt
  · exact absurd h (value_lt_of_toNat_lt hv hw hlt).ne
  · exact BitVec.eq_of_toNat_eq heq
  · exact absurd h (value_lt_of_toNat_lt hw hv hgt).ne'

theorem value_nonneg {w : Word32} (h : signBit w = false) : 0 ≤ value w := by
  rw [value_eq_valueOf h]; exact valueOf_nonneg _ _

theorem value_nonpos {w : Word32} (h : signBit w = true) : value w ≤ 0 := by
  have := value_nonneg (w := flipSign w) (by simp [h])
  rw [value_flipSign] at this
  linarith

/-- The fraction field is even exactly when the pattern is. -/
theorem fracField_mod_two (w : Word32) : fracField w % 2 = w.toNat % 2 := by
  rw [fracField_eq]; omega

end Sys2Proof.Machine
end

