-- ==== Sys2Proof/Laws/Operands.lean ====
section
/-! SUPPORT. One lemma per operand form: what an extraction's shifts and masks select. -/

namespace Sys2Proof.Machine

/-- The mask `0b11` keeps bits 0 and 1. -/
theorem getLsbD_maskThree (i : Nat) : (0b11 : Byte).getLsbD i = decide (i < 2) := by
  by_cases h : i < 8
  · interval_cases i <;> rfl
  · rw [BitVec.getLsbD_of_ge _ _ (by omega)]
    simp only [Bool.false_eq, decide_eq_false_iff_not]
    omega

/-- The high byte stands above the two bits of the status byte (spec/30_encoding.md R73). -/
theorem accelOf_eq_append (shift : Nat) (high status : Byte) :
    accelOf shift high status = high ++ status.extractLsb' shift 2 := by
  apply BitVec.eq_of_getLsbD_eq
  intro i hi
  have right : (high ++ status.extractLsb' shift 2).getLsbD i =
      if i < 2 then (status.extractLsb' shift 2).getLsbD i else high.getLsbD (i - 2) := BitVec.getLsbD_append
  rw [right]
  simp only [accelOf, BitVec.getLsbD_or, BitVec.getLsbD_shiftLeft, BitVec.getLsbD_setWidth, BitVec.getLsbD_and,
    BitVec.getLsbD_ushiftRight, getLsbD_maskThree, BitVec.getLsbD_extractLsb', hi, decide_true, Bool.true_and]
  by_cases h2 : i < 2
  · simp [h2]
  · simp only [h2, decide_false, Bool.not_false, Bool.true_and, Bool.and_false, Bool.or_false, if_false,
      Bool.and_eq_right_iff_imp, decide_eq_true_eq]
    omega

/-- `BC` is the complement of bit 1 (spec/41_field_extraction.md R106). -/
theorem buttonC_eq (b5 : Byte) : buttonC b5 = !b5.getLsbD 1 := by revert b5; decide

/-- `BZ` is the complement of bit 0 (R107). -/
theorem buttonZ_eq (b5 : Byte) : buttonZ b5 = !b5.getLsbD 0 := by revert b5; decide

end Sys2Proof.Machine
end

