-- ==== Sys2Proof/Laws/PerInstr.lean ====
section
/-! SUPPORT. One lemma per constructor for each family of statements about instructions as syntax. -/

/-! ## SelectsRow: an instruction's word selects its row of the opcode table, and carries its operands -/

namespace Sys2Proof.Laws.SelectsRow

/-- The word of the instruction selects the row of its name, and the instruction, with its operands, is among those
the word stands for (spec/30_encoding.md R81). -/
def Statement (i : Instr) : Prop := selectsRow i.mnemonic (encode i) = true ∧ i ∈ (encode i).rows

theorem reset : Statement .reset := by constructor <;> decide

theorem abort : Statement .abort := by constructor <;> decide

theorem push (d : Byte) : Statement (.push d) := by
  refine ⟨?_, by simp [encode, Encoded.rows, Request.ops]⟩
  revert d; decide

theorem est : Statement .est := by constructor <;> decide

theorem idle : Statement .idle := by constructor <;> decide

theorem decode (f : Frame) : Statement (.decode f) :=
  ⟨by simp [selectsRow, opcodeTable, encode, Instr.mnemonic, RowPattern.selects], by simp [encode, Encoded.rows]⟩

theorem jx (b0 : Byte) : Statement (.jx b0) :=
  ⟨by simp [selectsRow, opcodeTable, encode, Instr.mnemonic, RowPattern.selects], by simp [encode, Encoded.rows]⟩

theorem jy (b1 : Byte) : Statement (.jy b1) :=
  ⟨by simp [selectsRow, opcodeTable, encode, Instr.mnemonic, RowPattern.selects], by simp [encode, Encoded.rows]⟩

theorem ax (b2 b5 : Byte) : Statement (.ax b2 b5) :=
  ⟨by simp [selectsRow, opcodeTable, encode, Instr.mnemonic, RowPattern.selects], by simp [encode, Encoded.rows]⟩

theorem ay (b3 b5 : Byte) : Statement (.ay b3 b5) :=
  ⟨by simp [selectsRow, opcodeTable, encode, Instr.mnemonic, RowPattern.selects], by simp [encode, Encoded.rows]⟩

theorem az (b4 b5 : Byte) : Statement (.az b4 b5) :=
  ⟨by simp [selectsRow, opcodeTable, encode, Instr.mnemonic, RowPattern.selects], by simp [encode, Encoded.rows]⟩

theorem bc (b5 : Byte) : Statement (.bc b5) :=
  ⟨by simp [selectsRow, opcodeTable, encode, Instr.mnemonic, RowPattern.selects], by simp [encode, Encoded.rows]⟩

theorem bz (b5 : Byte) : Statement (.bz b5) :=
  ⟨by simp [selectsRow, opcodeTable, encode, Instr.mnemonic, RowPattern.selects], by simp [encode, Encoded.rows]⟩

theorem roll : Statement .roll := by constructor <;> decide

theorem pitch : Statement .pitch := by constructor <;> decide

end Sys2Proof.Laws.SelectsRow
end

