-- ==== Sys2Proof/Laws/Reference.lean ====
section
/-! SUPPORT. The ideal angle and nearest patterns: the symmetry of both, and that two positive patterns equally near to
a number are neighbours. -/

namespace Sys2Proof

open Machine

theorem theta_neg (n q : Int) : theta (-n) q = -theta n q := by
  unfold theta
  push_cast
  rw [neg_div, Real.arctan_neg, neg_mul]

theorem theta_nonneg (n q : Int) (h : 0 ≤ n) : 0 ≤ theta n q := by
  have harc : 0 ≤ Real.arctan ((n : ℝ) / √q) := Real.arctan_nonneg.2 (by positivity)
  have hpi := Real.pi_pos
  unfold theta
  positivity

/-- Rounding to nearest is symmetric (spec/42_tilt.md R138). -/
theorem isNearest_flipSign {w : Word32} {x : ℝ} (h : IsNearest w x) : IsNearest (flipSign w) (-x) := by
  refine ⟨by simpa using h.1, fun v hv => ?_⟩
  have hw : |((value (flipSign w) : Rat) : ℝ) - -x| = |(value w : ℝ) - x| := by
    rw [value_flipSign, ← abs_neg]; push_cast; ring_nf
  have hv' : |((value (flipSign v) : Rat) : ℝ) - x| = |(value v : ℝ) - -x| := by
    rw [value_flipSign, ← abs_neg]; push_cast; ring_nf
  obtain ⟨hle, htie⟩ := h.2 (flipSign v) (by simpa using hv)
  rw [hw, fracField_flipSign, value_flipSign]
  rw [hv'] at hle htie
  exact ⟨hle, fun e => (htie e).imp (fun h => by rw [h, value_flipSign]; ring) id⟩

/-- Negating a numerator that is not zero flips the sign of its reference angle (R134, R138). -/
theorem isReferenceAngle_neg {n q : Int} {w : Word32} (hn : n ≠ 0) (h : IsReferenceAngle n q w) :
    IsReferenceAngle (-n) q (flipSign w) := by
  refine ⟨theta_neg n q ▸ isNearest_flipSign h.1, ?_⟩
  rw [signBit_flipSign, h.2]
  by_cases hneg : n < 0 <;> simp [hneg] <;> omega

/-- The finite positive patterns are those below the pattern of infinity. -/
theorem isFinite_iff_toNat {w : Word32} (h : signBit w = false) : isFinite w = true ↔ w.toNat < 255 * 2 ^ 23 := by
  have hlt := (signBit_false_iff w).1 h
  have he := expField_eq w
  simp only [isFinite, bne_iff_ne]
  omega

/-- Between two positive patterns that are not neighbours there is another number. -/
theorem exists_value_between {v w : Word32} (hv : signBit v = false) (hw : signBit w = false)
    (hfin : isFinite w = true) (h : v.toNat + 1 < w.toNat) :
    ∃ u : Word32, isFinite u = true ∧ value v < value u ∧ value u < value w := by
  have hw' := (isFinite_iff_toNat hw).1 hfin
  have hu : (BitVec.ofNat 32 (v.toNat + 1)).toNat = v.toNat + 1 := by rw [BitVec.toNat_ofNat]; omega
  have hs : signBit (BitVec.ofNat 32 (v.toNat + 1)) = false := (signBit_false_iff _).2 (by omega)
  exact ⟨_, (isFinite_iff_toNat hs).2 (by omega), value_lt_of_toNat_lt hv hs (by omega),
    value_lt_of_toNat_lt hs hw (by omega)⟩

/-- Two positive patterns of different numbers, equally near to `x` with none nearer, are neighbours; so exactly one
of them has an even fraction. -/
theorem toNat_succ_of_tie {v w : Word32} {x : ℝ} (hv : signBit v = false) (hw : signBit w = false)
    (hfin : isFinite w = true) (hmin : ∀ u, isFinite u = true → |(value v : ℝ) - x| ≤ |(value u : ℝ) - x|)
    (htie : |(value w : ℝ) - x| = |(value v : ℝ) - x|) (h : value v < value w) : w.toNat = v.toNat + 1 := by
  have hlt : v.toNat < w.toNat := by
    rcases Nat.lt_trichotomy v.toNat w.toNat with hlt | heq | hgt
    · exact hlt
    · exact absurd h (by rw [BitVec.eq_of_toNat_eq heq]; exact lt_irrefl _)
    · exact absurd (value_lt_of_toNat_lt hw hv hgt) h.not_gt
  by_contra hfar
  obtain ⟨u, hu, hvu, huw⟩ := exists_value_between hv hw hfin (by omega)
  have hvu' : (value v : ℝ) < value u := by exact_mod_cast hvu
  have huw' : (value u : ℝ) < value w := by exact_mod_cast huw
  have hle := hmin u hu
  rcases abs_eq_abs.1 htie with e | e
  · linarith
  · rw [abs_of_neg (by linarith : (value v : ℝ) - x < 0)] at hle
    have : |(value u : ℝ) - x| < -((value v : ℝ) - x) := by rw [abs_lt]; constructor <;> linarith
    linarith

end Sys2Proof
end

