-- ==== Sys2Proof/Tests/Slice0.lean ====
section
/-! SUPPORT. The model's own tests: well-formedness refuses what it should; words written out from the encodings decode
to their instructions; single operations on small states, with results from spec/95_test_vectors.md; and for every
statement with hypotheses, a state and operands that meet them. -/

namespace Sys2Proof.Tests

open Machine

/-! ## Well-formedness -/

theorem test_wellFormed_operations : ([.reset, .abort, .push 0xFF#8, .est, .idle] : List Instr).all Instr.wellFormed = true := by
  decide

/-- R81: the ten parts are not requestable. -/
theorem test_wellFormed_refuses_parts :
    ([.decode ⟨0, 0, 0, 0, 0, 0⟩, .jx 0, .jy 0, .ax 0 0, .ay 0 0, .az 0 0, .bc 0, .bz 0, .roll, .pitch] : List Instr).all
      (fun i => !i.wellFormed) = true := by decide

theorem test_script_refuses_byte : (ScriptLine.push 256).wellFormed = false := by decide

theorem test_script_refuses_frame_byte : (ScriptLine.frame 0 0 0 0 0 256).wellFormed = false := by decide

theorem test_script_refuses_poll_byte : (ScriptLine.poll 256 0 0 0 0 0).wellFormed = false := by decide

theorem test_script_refuses_acceleration : (ScriptLine.report 0 0 0 1024 0 0 0).wellFormed = false := by decide

theorem test_script_refuses_button : (ScriptLine.report 0 0 0 0 0 2 0).wellFormed = false := by decide

/-! ## Decoding: words from R78, R79 and R72 -/

theorem test_decode_reset : decodePort 0b100000000000#12 = ⟨.reset, false⟩ := by decide

theorem test_decode_reset_overrides : decodePort 0b111101010101#12 = ⟨.reset, false⟩ := by decide

theorem test_decode_abort_discards_byte : decodePort 0b011011111111#12 = ⟨.abort, false⟩ := by decide

theorem test_decode_abort_then_est : decodePort 0b010100000000#12 = ⟨.abort, true⟩ := by decide

theorem test_decode_push : decodePort 0b001010000000#12 = ⟨.push 0x80#8, false⟩ := by decide

theorem test_decode_push_then_est : decodePort 0b001100011100#12 = ⟨.push 0x1C#8, true⟩ := by decide

theorem test_decode_est : decodePort 0b000100000000#12 = ⟨.est, false⟩ := by decide

theorem test_decode_idle_ignores_data : decodePort 0b000010100111#12 = ⟨.idle, false⟩ := by decide

/-- R8, R70: the wire order of a frame, in bytes and as the table's word. -/
theorem test_decode_frame_bytes : decodeBytes [0x12#8, 0x34#8, 0x56#8, 0x78#8, 0x9A#8, 0xE6#8] =
    .ok [.decode ⟨0x12#8, 0x34#8, 0x56#8, 0x78#8, 0x9A#8, 0xE6#8⟩] := by rfl

theorem test_decode_frame_word : decodeTableWord 48 0x123456789AE6 =
    some (.decode ⟨0x12#8, 0x34#8, 0x56#8, 0x78#8, 0x9A#8, 0xE6#8⟩) := by decide

/-- R81: a frame selects `DECODE` and its parts, each with the bytes it reads. -/
theorem test_rows_of_frame : (Encoded.report48 0x123456789AE6#48).rows =
    [.decode ⟨0x12#8, 0x34#8, 0x56#8, 0x78#8, 0x9A#8, 0xE6#8⟩, .jx 0x12#8, .jy 0x34#8, .ax 0x56#8 0xE6#8,
      .ay 0x78#8 0xE6#8, .az 0x9A#8 0xE6#8, .bc 0xE6#8, .bz 0xE6#8] := by decide

/-- R81: the words of `EST` select `ROLL` and `PITCH` too. -/
theorem test_rows_of_est : (Encoded.port12 0x31C#12).rows = [.push 0x1C#8, .est, .roll, .pitch] := by decide

theorem test_decode_refuses_length : decodeBytes [0, 0, 0] = .error (.badLength 3) := by rfl

theorem test_decode_refuses_thirteen_bits : decodeTableWord 16 0x1000 = none := by decide

/-! ## Single operations -/

/-- The state an outcome gives; the reset state where it gives none. -/
def after : Host.Outcome State Fault Refusal → State
  | .next s => s
  | .fault _ => State.reset
  | .refused _ => State.reset

/-- Right after reset but for a Report with these acceleration values, `JX = 1`, and an old Orientation. -/
def withReport (x y z : Accel) : State :=
  { State.reset with
    rptValid := true, jx := .holds 1, jy := .holds 2, ax := .holds x, ay := .holds y, az := .holds z,
    bc := .holds true, bz := .holds false }

/-- Five bytes buffered, the sixth to come. -/
def withFiveBytes (b0 b1 b2 b3 b4 : Byte) : State :=
  { State.reset with idx := 5, fb := [(0, b0), (1, b1), (2, b2), (3, b3), (4, b4)] }

/-- V1: the source's own frame. -/
theorem test_push_completes_source_frame :
    HoldsReport (after (exec (.push 0x00#8) (withFiveBytes 0x80 0x7F 0x80 0x80 0x80)))
      ⟨128, 127, 512, 512, 512, true, true⟩ := by
  unfold HoldsReport; decide

/-- R90's example: from `IDX = 2`, `PUSH 0x80` gives `FB[2] = 0x80`, `IDX = 3`. -/
theorem test_push_buffers : exec (.push 0x80#8) { State.reset with idx := 2, fb := [(0, 1), (1, 2)] } =
    .next { State.reset with idx := 3, fb := [(0, 1), (1, 2), (2, 0x80#8)] } := by rfl

/-- V11: every field different. -/
theorem test_decode_every_field :
    HoldsReport (after (exec (.decode ⟨0x12#8, 0x34#8, 0x56#8, 0x78#8, 0x9A#8, 0xE6#8⟩) State.reset))
      ⟨18, 52, 345, 482, 619, false, true⟩ := by
  unfold HoldsReport; decide

/-- V11: `b[5] = 0b00_11_10_0_1`. -/
theorem test_decode_low_fields :
    HoldsReport (after (exec (.decode ⟨0xA5#8, 0x5A#8, 0x01#8, 0x02#8, 0x03#8, 0x39#8⟩) State.reset))
      ⟨165, 90, 6, 11, 12, true, false⟩ := by
  unfold HoldsReport; decide

theorem test_jx : (after (exec (.jx 0x80#8) State.reset)).jx = .holds 128#8 := by decide

theorem test_jy : (after (exec (.jy 0x7F#8) State.reset)).jy = .holds 127#8 := by decide

/-- V11: the shift keeps the top bits. -/
theorem test_ax_keeps_top_bits : (after (exec (.ax 0xFF#8 0x00#8) State.reset)).ax = .holds 1020#10 := by decide

theorem test_ay : (after (exec (.ay 0x78#8 0xE6#8) State.reset)).ay = .holds 482#10 := by decide

theorem test_az : (after (exec (.az 0x9A#8 0xE6#8) State.reset)).az = .holds 619#10 := by decide

/-- V13. -/
theorem test_bc : (after (exec (.bc 0xFD#8) State.reset)).bc = .holds true := by decide

theorem test_bz : (after (exec (.bz 0xFD#8) State.reset)).bz = .holds false := by decide

/-- V15: the inverse packing. -/
theorem test_pack : Report.pack ⟨0, 0, 1, 2, 3, true, false⟩ = ⟨0, 0, 0, 0, 0, 0xE5#8⟩ := by decide

theorem test_abort : (after (exec .abort (withFiveBytes 0x11 0x22 0x33 0x44 0x55))).idx = 0 := by decide

theorem test_idle : exec .idle (withReport 1 2 3) = .next (withReport 1 2 3) := by rfl

theorem test_reset_forgets : exec .reset (withReport 1 2 3) = .next State.reset := by rfl

/-- P4: roll is invalid although its numerator is 512; pitch is `+0.0`. -/
theorem test_est_one_invalid :
    (after (exec .est (withReport 0 512 0))).roll = .holds 0x7FC00000#32 ∧
    (after (exec .est (withReport 0 512 0))).rollInv = .holds true ∧
    (after (exec .est (withReport 0 512 0))).pitch = .holds 0#32 ∧
    (after (exec .est (withReport 0 512 0))).pitchInv = .holds false := by decide

/-- P2: an estimate before any Report does nothing. -/
theorem test_est_too_early : exec .est State.reset = .next State.reset := by rfl

/-- V19: pitch invalid, roll `+0.0`. -/
theorem test_pitch_invalid : (after (exec .pitch (withReport 512 0 0))).pitch = .holds 0x7FC00000#32 := by decide

theorem test_roll_zero : (after (exec .roll (withReport 512 0 0))).roll = .holds 0#32 := by decide

/-- R19, P6: word `31C` is a `PUSH` now and an `EST` in the next step. -/
theorem test_step_owes_est :
    (after (step (State.reset.withFetchWord 16 0x31C))).estPending = true := by decide

/-- R37: a read of a register that holds no value is refused by name; a flag is always readable. -/
theorem test_read_no_value : State.reset.readOutput .jx = .error (.noValue .jx) := by rfl

theorem test_read_value : (withReport 345 0 0).readOutput .ax = .ok 345 := by rfl

/-! ## The real-number side -/

/-- V22: `0x42340000` is 45. -/
theorem test_value_fortyFive : value 0x42340000#32 = 45 := by
  have he : expField 0x42340000#32 = 132 := by decide
  have hf : fracField 0x42340000#32 = 0x340000 := by decide
  have hs : signBit 0x42340000#32 = false := by decide
  simp only [value, he, hf, hs]
  norm_num

/-- V18: the ideal roll of `(3, 5, 4)` is 45 degrees. -/
theorem test_theta_fortyFive : theta 5 25 = 45 := by
  have h : Real.sqrt ((25 : Int) : ℝ) = 5 := by
    rw [show ((25 : Int) : ℝ) = 5 ^ 2 by norm_num]
    exact Real.sqrt_sq (by norm_num)
  unfold theta
  rw [h]
  norm_num

/-! ## Witnesses: for every statement with hypotheses, a state and operands that meet them -/

/-- CoincidentRequestsPerformedInOrder, both clauses on the words `280` and `31C`. -/
theorem witness_requests :
    ({ State.reset with port := [0x280#12, 0x31C#12] } : State).estPending = false ∧
    (decodePort 0x280#12).ops = [.push 0x80#8] ∧ (decodePort 0x31C#12).ops = [.push 0x1C#8, .est] := by decide

/-- Its first part: a word for each class of `C[3:0]`, at the ends of each. -/
theorem witness_request_classes :
    BitVec.extractLsb' 8 4 0x0A7#12 = 0 ∧ BitVec.extractLsb' 8 4 0x100#12 = 1 ∧ BitVec.extractLsb' 8 4 0x2FF#12 = 2 ∧
    BitVec.extractLsb' 8 4 0x31C#12 = 3 ∧ BitVec.extractLsb' 8 4 0x400#12 = 4 ∧ BitVec.extractLsb' 8 4 0x6FF#12 = 6 ∧
    BitVec.extractLsb' 8 4 0x500#12 = 5 ∧ BitVec.extractLsb' 8 4 0x7AA#12 = 7 ∧ 8 ≤ BitVec.extractLsb' 8 4 0x800#12 ∧
    8 ≤ BitVec.extractLsb' 8 4 0xF55#12 := by decide

/-- OpcodeRowsSelectExactly, its list of rows. -/
theorem witness_frame_rows : "BZ" ∈ ["DECODE", "JX", "JY", "AX", "AY", "AZ", "BC", "BZ"] := by decide

/-- EncodedInstructionsDecodeBack, both alternatives. -/
theorem witness_encoded : (Instr.push 0xFF#8).wellFormed = true ∧
    ∃ f, Instr.decode ⟨1, 2, 3, 4, 5, 6⟩ = .decode f := ⟨by decide, _, rfl⟩

/-- PackAndDecodeAreInverse: two frames that decode alike. -/
theorem witness_decode_alike : decodeFrame ⟨1, 2, 3, 4, 5, 6⟩ = decodeFrame ⟨1, 2, 3, 4, 5, 6⟩ := rfl

/-- ScriptLinesAssembleAndRun: both ends of every range. -/
theorem witness_script : State.reset.idx = 0 ∧ (ScriptLine.report 255 255 1023 1023 1023 1 1).wellFormed = true ∧
    (ScriptLine.report 0 0 0 0 0 0 0).wellFormed = true := by decide

/-- ResetResult, last clause. -/
theorem witness_reset_clears : exec .reset (withReport 1 2 3) = .next State.reset ∧
    (withReport 1 2 3).rptValid = true ∧ State.reset.rptValid = false := ⟨rfl, rfl, rfl⟩

theorem witness_reset_words : BitVec.getLsbD 0x800#12 11 = true ∧ BitVec.getLsbD 0xFFF#12 11 = true := by decide

/-- AbortResult, SixPushesDecodeTheirFrame, SeventhByteStartsAFrame, FramesAreCountedInSixes,
PollEstimatesItsFrame: a state at the start of a frame. -/
theorem witness_frame_start : (withReport 1 2 3).idx = 0 := rfl

/-- PushResult, both clauses, at the ends of the first. -/
theorem witness_push : State.reset.idx.val < 5 ∧ ({ State.reset with idx := 4 } : State).idx.val < 5 ∧
    (withFiveBytes 1 2 3 4 5).idx.val = 5 := by decide

/-- CompletingPushDecodes. -/
theorem witness_completing : (withFiveBytes 1 2 3 4 5).idx = 5 ∧ (withFiveBytes 1 2 3 4 5).fb.read 0 = .holds 1 ∧
    (withFiveBytes 1 2 3 4 5).fb.read 1 = .holds 2 ∧ (withFiveBytes 1 2 3 4 5).fb.read 2 = .holds 3 ∧
    (withFiveBytes 1 2 3 4 5).fb.read 3 = .holds 4 ∧ (withFiveBytes 1 2 3 4 5).fb.read 4 = .holds 5 := by decide

/-- FramesAreCountedInSixes: operations of the three kinds, from a state at the start of a frame. -/
theorem witness_counted : State.reset.idx = 0 ∧
    ∀ i ∈ ([.push 1, .est, .push 2, .idle] : List Instr), i = .est ∨ i = .idle ∨ ∃ d, i = .push d := by simp [State.reset]

/-- AbortResult, EstResult, IdleLeavesRunsUnchanged: words of each. -/
theorem witness_words : BitVec.getLsbD 0x6FF#12 11 = false ∧ BitVec.getLsbD 0x6FF#12 10 = true ∧
    BitVec.getLsbD 0x31C#12 11 = false ∧ BitVec.getLsbD 0x31C#12 8 = true ∧ BitVec.extractLsb' 8 4 0x0FF#12 = 0 := by
  decide

/-- RequestsAreTheHosts: an instruction with a next state, words waiting at the ports. -/
theorem witness_hosts : exec .abort (State.reset.request 0x280#12) = .next (State.reset.request 0x280#12) := by rfl

/-- DeadBytesAreNeverRead: one live byte the same, one dead byte different. -/
theorem witness_dead_bytes : SameButDeadBytes { State.reset with idx := 1, fb := [(0, 7), (1, 8)] }
    { State.reset with idx := 1, fb := [(0, 7), (1, 9)] } := by
  refine ⟨rfl, ?_⟩
  decide

/-- StatusBitsReachOneField: for each clause two different frames that agree where it asks. -/
theorem witness_status_bits :
    (⟨1, 2, 3, 4, 5, 0xFF⟩ : Frame).b0 = (⟨1, 0, 0, 0, 0, 0⟩ : Frame).b0 ∧
    (⟨1, 2, 3, 4, 5, 0xFF⟩ : Frame).b1 = (⟨0, 2, 0, 0, 0, 0⟩ : Frame).b1 ∧
    BitVec.extractLsb' 2 2 0xFF#8 = BitVec.extractLsb' 2 2 0x0C#8 ∧
    BitVec.extractLsb' 4 2 0xFF#8 = BitVec.extractLsb' 4 2 0x30#8 ∧
    BitVec.extractLsb' 6 2 0xFF#8 = BitVec.extractLsb' 6 2 0xC0#8 ∧
    BitVec.getLsbD 0xFF#8 1 = BitVec.getLsbD 0x02#8 1 ∧ BitVec.getLsbD 0xFF#8 0 = BitVec.getLsbD 0x01#8 0 := by decide

/-- ButtonsAreIndependent: V13's four bytes. -/
theorem witness_buttons : BitVec.extractLsb' 0 2 0xFC#8 = 0b00#2 ∧ BitVec.extractLsb' 0 2 0xFD#8 = 0b01#2 ∧
    BitVec.extractLsb' 0 2 0xFE#8 = 0b10#2 ∧ BitVec.extractLsb' 0 2 0xFF#8 = 0b11#2 := by decide

/-- TiltHelper, both clauses. -/
theorem witness_tilt : (0 : Int) * 0 + 0 * 0 = 0 ∧ (0 : Int) * 0 + 1 * 1 ≠ 0 := by decide

/-- EstResult, RollResult, PitchResult, DegenerateDenominators, InvalidOrientationCode: a Report with values. -/
theorem witness_report : (withReport 300 400 500).rptValid = true ∧ (withReport 300 400 500).ax = .holds 300 ∧
    (withReport 300 400 500).ay = .holds 400 ∧ (withReport 300 400 500).az = .holds 500 ∧
    State.reset.rptValid = false := by decide

/-- RollResult and PitchResult, both clauses: acceleration values with a zero sum and with the least that is not. -/
theorem witness_sums : ((0#10).toNat : Int) * (0#10).toNat + (0#10).toNat * (0#10).toNat = 0 ∧
    ((1#10).toNat : Int) * (1#10).toNat + (0#10).toNat * (0#10).toNat ≠ 0 := by decide

/-- DegenerateDenominators and InvalidOrientationCode: a triple for each combination. -/
theorem witness_combinations :
    ((1 : Accel) ≠ 0 ∨ ((0 : Accel) ≠ 0 ∧ (0 : Accel) ≠ 0)) ∧ ((0 : Accel) ≠ 0 ∨ ((1 : Accel) ≠ 0 ∧ (1 : Accel) ≠ 0)) ∧
    ((0 : Accel) = 0 ∧ (0 : Accel) = 0 ∧ (1 : Accel) ≠ 0) := by decide

/-- AnglesOfNoValueHaveNone, with and without `RPT_VALID`. -/
theorem witness_no_value : State.reset.ax = .noValue ∧
    ({ State.reset with rptValid := true } : State).rptValid = true ∧
    ({ State.reset with rptValid := true } : State).ax = .noValue := ⟨rfl, rfl, rfl⟩

/-- EveryAdmissibleArithmeticIsReached: an arithmetic with the three properties. -/
def signedZero (n _q : Int) : Word32 := if n < 0 then 0x80000000#32 else 0#32

theorem witness_admissible : NumericsZero signedZero ∧ NumericsRange signedZero ∧ NumericsOdd signedZero := by
  have negZero : (0x80000000#32 : Word32) = flipSign 0#32 := by decide
  refine ⟨fun q _ => rfl, fun n q _ => ?_, fun n q hn _ => ?_⟩
  · rw [← inRange_iff, signedZero]
    split
    · rw [negZero, inRange_flipSign]; exact inRange_zero
    · exact inRange_zero
  · unfold signedZero
    rcases lt_or_gt_of_ne hn with h | h
    · rw [if_pos h, if_neg (show ¬-n < 0 by omega), negZero, flipSign_flipSign]
    · rw [if_neg (show ¬n < 0 by omega), if_pos (show -n < 0 by omega), negZero]

/-- EstimateIsAntisymmetric: operands that are not zero, with valid angles. -/
theorem witness_antisymmetric : (300 : Int) ≠ 0 ∧ (estimate 300 400 500).2.2 = false ∧ (estimate 300 400 500).1.2 = false := by
  decide

/-- AnglesDependOnTheSumOnly: V20's pairs. -/
theorem witness_equal_sums : (3 : Int) * 3 + 4 * 4 = 5 * 5 + 0 * 0 := by decide

/-- NearestPatternIsWithinTheBound: 45 degrees is its own pattern. -/
theorem witness_nearest : (0 : Int) < 25 ∧ IsNearest 0x42340000#32 (theta 5 25) := by
  refine ⟨by decide, by decide, fun v _ => ?_⟩
  rw [test_theta_fortyFive, test_value_fortyFive]
  have self : |((45 : Rat) : ℝ) - 45| = 0 := by norm_num
  rw [self]
  refine ⟨abs_nonneg _, fun h => .inl ?_⟩
  have : (value v : ℝ) = 45 := by linarith [abs_eq_zero.1 h.symm]
  exact_mod_cast this.symm

/-- ReferenceAnglesAreDetermined, ReferenceNumericsAreAdmissible: 45 degrees, by its pattern; the outermost
numerators; an arithmetic that is the reference numerics. -/
theorem witness_reference : IsReferenceAngle 5 25 0x42340000#32 ∧ |theta 5 25| ≤ 89.944 ∧
    InReferenceDomain 1023 ∧ InReferenceDomain (-1023) ∧ IsReference angleRef := by
  refine ⟨⟨witness_nearest.2, by decide⟩, ?_, ⟨by decide, by decide⟩, ⟨by decide, by decide⟩, fun _ _ _ _ => rfl⟩
  rw [test_theta_fortyFive]
  norm_num

/-- RANGE of one reference angle says something: 90 itself is out of range. -/
theorem test_ninety_out_of_range : inRange 0x42B40000#32 = false := by
  have he : expField 0x42B40000#32 = 133 := by decide
  have hf : fracField 0x42B40000#32 = 0x340000 := by decide
  have hs : signBit 0x42B40000#32 = false := by decide
  simp only [inRange, value, he, hf, hs]
  norm_num

/-- The ideal angle is strictly between -90 and 90. -/
theorem abs_theta_lt (n q : Int) : |theta n q| < 90 := by
  have hpi := Real.pi_pos
  have p : 0 < 180 / Real.pi := by positivity
  have e : (90 : ℝ) = Real.pi / 2 * (180 / Real.pi) := by field_simp; norm_num
  unfold theta
  rw [abs_lt, e, ← neg_mul]
  exact ⟨mul_lt_mul_of_pos_right (Real.neg_pi_div_two_lt_arctan _) p,
    mul_lt_mul_of_pos_right (Real.arctan_lt_pi_div_two _) p⟩

/-- AccuracyBoundExists: some bound serves. -/
theorem witness_accuracy : NumericsAcc 180 angle := by
  intro n q _
  have h : inRange (angle n q) = true := by
    unfold angle limitAngle
    split_ifs
    · exact inRange_zero
    · exact clampRange_inRange _
    · rw [inRange_flipSign]; exact clampRange_inRange _
  obtain ⟨_, h1, h2⟩ := (inRange_iff _).1 h
  have h1' : (-90 : ℝ) < value (angle n q) := by exact_mod_cast h1
  have h2' : (value (angle n q) : ℝ) < 90 := by exact_mod_cast h2
  have h3 := abs_lt.1 (abs_theta_lt n q)
  rw [abs_le]
  constructor <;> linarith [h3.1, h3.2]

/-! ### An arithmetic with ZERO, RANGE and a small accuracy bound: the ideal angle cut to a multiple of 1/1024 -/

theorem exists_cut (x : ℝ) (h0 : 0 ≤ x) (h90 : x < 90) :
    ∃ w : Word32, isFinite w = true ∧ 0 ≤ value w ∧ value w < 90 ∧ |(value w : ℝ) - x| ≤ 1 / 1024 ∧
      (x = 0 → w = 0#32) := by
  have hle := Nat.floor_le (a := x * 1024) (by positivity)
  have hlt := Nat.lt_floor_add_one (x * 1024)
  generalize hk : ⌊x * 1024⌋₊ = k at hle hlt
  have hk90 : k < 90 * 1024 := by
    have : (k : ℝ) < ((90 * 1024 : Nat) : ℝ) := by push_cast; linarith
    exact_mod_cast this
  obtain ⟨w, hw, _, hv, hz⟩ := exists_pattern k 10 (by omega) (by norm_num)
  refine ⟨w, hw, ?_, ?_, ?_, fun hx => hz (by rw [← hk, hx]; simp)⟩
  · rw [hv]; positivity
  · rw [hv, div_lt_iff₀ (by norm_num)]
    have : (k : Rat) < ((90 * 1024 : Nat) : Rat) := by exact_mod_cast hk90
    push_cast at this
    linarith
  · rw [hv]
    push_cast
    rw [abs_le]
    constructor <;> linarith

/-- The cut arithmetic: on negative numerators by the sign. -/
theorem exists_cut_arithmetic : ∃ f : Int → Int → Word32, NumericsZero f ∧ NumericsRange f ∧ NumericsAcc (1 / 1024) f := by
  have one : ∀ n q : Int, ∃ w : Word32, isFinite w = true ∧ -90 < value w ∧ value w < 90 ∧
      |(value w : ℝ) - theta n q| ≤ 1 / 1024 ∧ (n = 0 → w = 0#32) := by
    intro n q
    have hb := abs_lt.1 (abs_theta_lt n q)
    have hzero : n = 0 → theta n q = 0 := by rintro rfl; simp [theta]
    rcases le_total 0 (theta n q) with h | h
    · obtain ⟨w, hw, h1, h2, h3, h4⟩ := exists_cut (theta n q) h hb.2
      exact ⟨w, hw, by linarith, h2, h3, fun hn => h4 (hzero hn)⟩
    · by_cases hn : n = 0
      · obtain ⟨w, hw, h1, h2, h3, h4⟩ := exists_cut (theta n q) (hzero hn).ge hb.2
        exact ⟨w, hw, by linarith, h2, h3, fun _ => h4 (hzero hn)⟩
      · obtain ⟨w, hw, h1, h2, h3, _⟩ := exists_cut (-theta n q) (by linarith) (by linarith [hb.1])
        refine ⟨flipSign w, by simpa using hw, by rw [value_flipSign]; linarith, by rw [value_flipSign]; linarith, ?_,
          fun h => absurd h hn⟩
        rw [value_flipSign]
        push_cast
        rw [show -(value w : ℝ) - theta n q = -((value w : ℝ) - -theta n q) by ring, abs_neg]
        exact h3
  choose f h1 h2 h3 h4 h5 using one
  exact ⟨f, fun q _ => h5 0 q rfl, fun n q _ => ⟨h1 n q, h2 n q, h3 n q⟩, fun n q _ => h4 n q⟩

/-- The least ideal angle of the block that is not zero is above 1/1024 of a degree. -/
theorem least_theta : (1 / 1024 : ℝ) < theta 1 2093058 := by
  have hs : Real.sqrt ((2093058 : Int) : ℝ) ≤ 2048 := by
    rw [show (2048 : ℝ) = Real.sqrt (2048 ^ 2) by rw [Real.sqrt_sq (by norm_num)]]
    exact Real.sqrt_le_sqrt (by norm_num)
  have hpos : 0 < Real.sqrt ((2093058 : Int) : ℝ) := Real.sqrt_pos.2 (by norm_num)
  have hx : (1 / 2048 : ℝ) ≤ ((1 : Int) : ℝ) / Real.sqrt ((2093058 : Int) : ℝ) := by
    push_cast
    exact one_div_le_one_div_of_le (by exact_mod_cast hpos) (by exact_mod_cast hs)
  have htan : Real.tan (1 / 4096) ≤ 1 / 2048 := by
    rw [Real.tan_eq_sin_div_cos]
    have hc : (1 / 2 : ℝ) ≤ Real.cos (1 / 4096) := by
      have := Real.one_sub_sq_div_two_le_cos (x := (1 / 4096 : ℝ))
      norm_num at this ⊢
      linarith
    have hsin : Real.sin (1 / 4096) ≤ 1 / 4096 := Real.sin_le (by norm_num)
    rw [div_le_iff₀ (by linarith)]
    linarith
  have hpi3 := Real.pi_gt_three
  have hpi4 := Real.pi_le_four
  have harc : (1 / 4096 : ℝ) ≤ Real.arctan (((1 : Int) : ℝ) / Real.sqrt ((2093058 : Int) : ℝ)) := by
    calc (1 / 4096 : ℝ) = Real.arctan (Real.tan (1 / 4096)) :=
          (Real.arctan_tan (by linarith) (by linarith)).symm
      _ ≤ _ := Real.arctan_mono (htan.trans hx)
  have hdeg : (45 : ℝ) ≤ 180 / Real.pi := by
    rw [le_div_iff₀ Real.pi_pos]; linarith
  unfold theta
  calc (1 / 1024 : ℝ) < 1 / 4096 * 45 := by norm_num
    _ ≤ _ := mul_le_mul harc hdeg (by norm_num) (by linarith)

/-- ValidAnglesAreNotNegative: such an arithmetic and bound, and operands of a valid angle, zero and not zero. -/
theorem witness_nonnegative : (∃ f, NumericsZero f ∧ NumericsRange f ∧ NumericsAcc (1 / 1024) f) ∧
    (1 / 1024 : ℝ) < theta 1 2093058 ∧ (∀ f, (tiltWith f (0 : Accel).toNat (0 : Accel).toNat (1 : Accel).toNat).2 = false) ∧
    (∀ f, (tiltWith f (1023 : Accel).toNat (1 : Accel).toNat (0 : Accel).toNat).2 = false) :=
  ⟨exists_cut_arithmetic, least_theta, fun _ => by rfl, fun _ => by rfl⟩

/-- IdealAngleRange: both ends of its numerators. -/
theorem witness_ideal : (0 : Int) < 1 ∧ (0 : Int) ≤ 0 ∧ (1023 : Int) ≤ 1023 := by decide

/-- StepRunsTheDecodedInstruction: the three cases. -/
theorem witness_step : ({ State.reset with estPending := true } : State).estPending = true ∧
    ({ State.reset with port := [0x100#12] } : State).estPending = false ∧
    State.reset.estPending = false ∧ State.reset.port = [] := by decide

/-- RegistersHaveTheirWriters: operations that do change a register. -/
theorem witness_writers : (Instr.push 9).wellFormed = true ∧
    exec (.push 9) State.reset = .next { State.reset with idx := 1, fb := [(0, 9)] } ∧
    ¬SameMemory State.reset { State.reset with idx := 1, fb := [(0, 9)] } :=
  ⟨rfl, rfl, fun h => by have := h 0; revert this; decide⟩

theorem witness_writers_report : (after (exec (.push 0) (withFiveBytes 1 2 3 4 5))).jx ≠ (withFiveBytes 1 2 3 4 5).jx ∧
    (after (exec (.push 0) (withFiveBytes 1 2 3 4 5))).rptValid ≠ (withFiveBytes 1 2 3 4 5).rptValid ∧
    (after (exec .est (withReport 0 0 0))).roll ≠ (withReport 0 0 0).roll ∧
    (after (exec .est (withReport 0 0 0))).oriValid ≠ (withReport 0 0 0).oriValid := by decide

/-- EventsOfTheOperations: each clause. -/
theorem witness_events : (withFiveBytes 1 2 3 4 5).idx = 5 ∧ (withReport 1 2 3).rptValid = true ∧
    (¬∃ d, Instr.idle = .push d ∧ State.reset.idx = 5) ∧ ¬(Instr.idle = .est ∧ State.reset.rptValid = true) := by
  refine ⟨rfl, rfl, ?_, ?_⟩
  · rintro ⟨_, h, _⟩; cases h
  · decide

/-- StepKeepsTheInvariant, ResetMeetsTheInvariant, PermittedReadsAreAnswered: a state with a current Orientation, whose
angles are invalid. -/
theorem witness_invariant :
    RunInvariant { withReport 0 0 0 with
      roll := .holds Config.qnan, rollInv := .holds true, pitch := .holds Config.qnan, pitchInv := .holds true,
      oriValid := true, idx := 1, fb := [(0, 9)] } where
  memory := by decide
  accepted := by decide
  report := fun _ => ⟨⟨1, 2, 0, 0, 0, true, false⟩, by unfold HoldsReport; decide⟩
  empty := fun h => by cases h
  oriReport := fun _ => rfl
  estimate := by
    intro _ x y z hx hy hz
    cases hx; cases hy; cases hz
    exact ⟨rfl, rfl, rfl, rfl⟩
  roll := rfl
  pitch := rfl
  events := by decide

theorem witness_may_read : mayRead { withReport 0 0 0 with oriValid := true } .roll = true ∧
    mayRead (withReport 0 0 0) .ax = true := by decide

/-- EveryRunMeetsTheInvariant. -/
theorem witness_run : (∀ i ∈ ([.push 1, .est, .idle, .abort] : List Instr), i.wellFormed = true) ∧
    ∀ e ∈ State.reset.trace, eventHeld e = true := by decide

/-- ReadsOfNoValueAreRefused: both clauses. -/
theorem witness_reads : State.reset.output .roll = .noValue ∧ (withReport 7 0 0).output .ax = .holds 7 := by decide

end Sys2Proof.Tests
end

/-! Proofs of the statements of spec/00_scope.md: every operation completes and leaves the host's requests alone, which
operations emit an event, the two encodings read back, and the range of the ideal angle. -/

namespace Sys2Proof

open Machine

/-! ## What `exec` answers: an equation for each case of `PUSH` and `EST` -/

/-- A `PUSH` below 5 buffers its byte (spec/40_frame_ops.md R90). -/
theorem exec_push_of_ne_five {s : State} (d : Byte) (h : s.idx ≠ 5) :
    exec (.push d) s = .next ((s.memWrite s.idx d).setIdx (s.idx + 1)) := by
  obtain ⟨-, e⟩ | ⟨h5, -⟩ := execPush_cases (d := d) (s := s) rfl
  · exact e
  · exact absurd h5 h

/-- A `PUSH` at 5 decodes the five bytes buffered and its own (R91). -/
theorem exec_push_of_five {s : State} (d : Byte) (h : s.idx = 5) :
    exec (.push d) s = .next (((s.memWrite 5 d).decodeStep (s.memRead 0) (s.memRead 1) (s.memRead 2)
      (s.memRead 3) (s.memRead 4) (.holds d)).setIdx 0) := by
  obtain ⟨h5, -⟩ | ⟨-, e⟩ := execPush_cases (d := d) (s := s) rfl
  · exact absurd h h5
  · exact e

/-- An `EST` with a Report computes both angles and emits them (spec/42_tilt.md R121). -/
theorem exec_est_of_report {s : State} (h : s.rptValid = true) :
    exec .est s = .next (s.writeRoll.writePitch.newOrientationFlag.emit
      s.writeRoll.writePitch.newOrientationFlag.orientationEvent) := by
  simp [exec, execEst, h]

/-- An `EST` without a Report does nothing (R121). -/
theorem exec_est_of_no_report {s : State} (h : s.rptValid = false) : exec .est s = .next s := by
  simp [exec, execEst, h]

/-! ## Every instruction, step and sequence answers a next state -/

/-- No instruction faults or is refused (spec/00_scope.md R15); `PUSH` and `EST` are the two with cases. -/
theorem exec_completes (i : Instr) (s : State) : ∃ t, exec i s = .next t := by
  cases i with
  | push d =>
    by_cases h5 : s.idx = 5
    · exact ⟨_, exec_push_of_five d h5⟩
    · exact ⟨_, exec_push_of_ne_five d h5⟩
  | est =>
    cases hr : s.rptValid
    · exact ⟨_, exec_est_of_no_report hr⟩
    · exact ⟨_, exec_est_of_report hr⟩
  | _ => exact ⟨_, rfl⟩

theorem perform_cons_of_next {i : Instr} {s t : State} (h : exec i s = .next t) (ops : List Instr) :
    perform (i :: ops) s = perform ops t := by
  simp [perform, h]

theorem perform_completes (ops : List Instr) (s : State) : ∃ t, perform ops s = .next t := by
  induction ops generalizing s with
  | nil => exact ⟨s, rfl⟩
  | cons i ops ih =>
    obtain ⟨t, ht⟩ := exec_completes i s
    rw [perform_cons_of_next ht]
    exact ih t

/-- A consumer's read is refused exactly when the register holds no value (spec/10_state.md R37). -/
theorem readOutput_refused_iff (s : State) (r : OutReg) :
    s.readOutput r = .error (.noValue r) ↔ s.output r = .noValue := by
  unfold State.readOutput
  cases s.output r <;> simp

/-- Settles O45: no arm of `exec` stops, so no step and, by induction on the operations, no run does. -/
theorem everyOperationCompletes : Obligations.EveryOperationCompletes :=
  ⟨exec_completes, fun s => exec_completes s.nextOperation.1 s.nextOperation.2, perform_completes,
    readOutput_refused_iff⟩

/-! ## The host's requests -/

/-- Settles O48: every register update of every instruction leaves the two request fields as they are. -/
theorem requestsAreTheHosts : Obligations.RequestsAreTheHosts := by
  intro i s t h
  cases i with
  | push d =>
    by_cases h5 : s.idx = 5
    · rw [exec_push_of_five d h5] at h
      cases h
      exact ⟨by simp, by simp⟩
    · rw [exec_push_of_ne_five d h5] at h
      cases h
      exact ⟨by simp, by simp⟩
  | est =>
    cases hr : s.rptValid
    · rw [exec_est_of_no_report hr] at h
      cases h
      exact ⟨rfl, rfl⟩
    · rw [exec_est_of_report hr] at h
      cases h
      exact ⟨by simp, by simp⟩
  | _ => cases h; exact ⟨rfl, rfl⟩

/-! ## The events -/

/-- Completing a frame emits the Report registers' new contents (spec/00_scope.md R13). -/
theorem exec_push_of_five_trace {s t : State} {d : Byte} (h5 : s.idx = 5) (h : exec (.push d) s = .next t) :
    t.trace = s.trace ++ [.report t.jx t.jy t.ax t.ay t.az t.bc t.bz] := by
  rw [exec_push_of_five d h5] at h
  cases h
  simp

/-- A computing `EST` emits the Orientation registers' new contents (R13). -/
theorem exec_est_of_report_trace {s t : State} (hr : s.rptValid = true) (h : exec .est s = .next t) :
    t.trace = s.trace ++ [.orientation t.roll t.rollInv t.pitch t.pitchInv] := by
  rw [exec_est_of_report hr] at h
  cases h
  simp [State.orientationEvent]

/-- No other requestable operation emits: of the five only a `PUSH` at 5 and an `EST` with a Report do. -/
theorem exec_trace_unchanged {i : Instr} {s t : State} (hi : i.wellFormed = true)
    (hpush : ¬∃ d, i = .push d ∧ s.idx = 5) (hest : ¬(i = .est ∧ s.rptValid = true)) (h : exec i s = .next t) :
    t.trace = s.trace := by
  cases i with
  | reset | abort | idle => cases h; rfl
  | push d =>
    rw [exec_push_of_ne_five d fun h5 => hpush ⟨d, rfl, h5⟩] at h
    cases h
    simp
  | est =>
    rw [exec_est_of_no_report (by simpa using hest)] at h
    cases h
    rfl
  | _ => cases hi

/-- Settles O51: the two emitting cases and the frame of the trace for the rest. -/
theorem eventsOfTheOperations : Obligations.EventsOfTheOperations := by
  intro i s hi
  obtain ⟨t, ht⟩ := exec_completes i s
  refine ⟨t, ht, ?_, ?_, fun hpush hest => exec_trace_unchanged hi hpush hest ht⟩
  · rintro ⟨d, rfl⟩ h5
    exact exec_push_of_five_trace h5 ht
  · rintro rfl hr
    exact exec_est_of_report_trace hr ht

/-! ## The encodings -/

/-- A frame word is the word of its six bytes (R8): neighbouring byte ranges join, from the left. -/
@[simp] theorem Frame.toWord_ofWord (F : Word48) : (Frame.ofWord F).toWord = F := by
  simp only [Frame.toWord, Frame.ofWord, BitVec.extractLsb'_append_extractLsb'_eq_extractLsb']
  exact BitVec.extractLsb'_eq_self

/-- The bytes of a frame word as the opcode table numbers it are the bytes of its frame, in wire order. -/
theorem tableWordBytes_frame (F : Word48) :
    tableWordBytes 48 F.toNat = [(Frame.ofWord F).b0, (Frame.ofWord F).b1, (Frame.ofWord F).b2,
      (Frame.ofWord F).b3, (Frame.ofWord F).b4, (Frame.ofWord F).b5] := by
  simp [tableWordBytes, Frame.ofWord, BitVec.extractLsb', Nat.shiftRight_eq_div_pow]

/-- The high byte of an operation word's carrier leaves bits 15:12 zero (assumption 6). -/
theorem carrierHigh_lt (w : Word12) : (BitVec.ofNat 8 (w.toNat / 2 ^ 8)).toNat < 16 := by
  have := w.isLt
  rw [BitVec.toNat_ofNat]
  omega

/-- The two carrier bytes of an operation word join to the word. -/
theorem carrier_append (w : Word12) :
    (BitVec.ofNat 8 (w.toNat / 2 ^ 8)).setWidth 4 ++ BitVec.ofNat 8 w.toNat = w := by
  have := w.isLt
  apply BitVec.eq_of_toNat_eq
  rw [BitVec.toNat_append, ← Nat.shiftLeft_add_eq_or_of_lt (BitVec.isLt _), Nat.shiftLeft_eq, BitVec.toNat_setWidth,
    BitVec.toNat_ofNat, BitVec.toNat_ofNat]
  omega

theorem tableWordBytes_port12 (w : Word12) :
    tableWordBytes 16 w.toNat = [BitVec.ofNat 8 w.toNat, BitVec.ofNat 8 (w.toNat / 2 ^ 8)] := by
  have := w.isLt
  simp (disch := omega) [tableWordBytes, Nat.mod_eq_of_lt]

/-- Reading a word through the opcode table's numbering gives the first operation the word stands for. -/
theorem decodeTableWord_number (e : Encoded) : decodeTableWord e.nbits e.number = e.ops.head? := by
  cases e with
  | port12 w =>
    simp only [decodeTableWord, Encoded.nbits, Encoded.number, tableWordBytes_port12, decodeBytes,
      carrierHigh_lt, if_true, carrier_append]
  | report48 F =>
    simp only [decodeTableWord, Encoded.nbits, Encoded.number, tableWordBytes_frame, decodeBytes]
    rfl

/-- The word of one of the five operations, or of `DECODE`, stands for that one operation. -/
theorem ops_encode {i : Instr} (hi : i.wellFormed = true ∨ ∃ f, i = .decode f) : (encode i).ops = [i] := by
  obtain hi | ⟨f, rfl⟩ := hi
  · cases i with
    | reset | abort | est | idle => rfl
    | push d => simp [encode, Encoded.ops, Request.ops]
    | _ => cases hi
  · simp [encode, Encoded.ops]

/-- Settles O4: the word of an instruction stands for it alone, and the table's numbering reads a word's first
operation. -/
theorem encodedInstructionsDecodeBack : Obligations.EncodedInstructionsDecodeBack := by
  refine ⟨fun i hi => ⟨ops_encode hi, ?_⟩, Frame.toWord_ofWord⟩
  rw [decodeTableWord_number, ops_encode hi]
  rfl

/-! ## The ideal angle -/

/-- The ideal angle is an arc tangent in degrees, so it never reaches a right angle (R11). -/
theorem abs_theta_lt (n q : Int) : |theta n q| < 90 := by
  have hpi := Real.pi_pos
  have harc : |Real.arctan ((n : ℝ) / √q)| < Real.pi / 2 :=
    abs_lt.2 ⟨Real.neg_pi_div_two_lt_arctan _, Real.arctan_lt_pi_div_two _⟩
  unfold theta
  rw [abs_mul, abs_of_pos (by positivity : 0 < 180 / Real.pi)]
  calc |Real.arctan ((n : ℝ) / √q)| * (180 / Real.pi) < Real.pi / 2 * (180 / Real.pi) := by gcongr
    _ = 90 := by field_simp; norm_num

@[simp] theorem theta_zero (q : Int) : theta 0 q = 0 := by simp [theta]

/-- The ideal angle grows with a numerator that is not negative and falls with the sum under the root. -/
theorem theta_le_theta {m n p q : Int} (hm : 0 ≤ m) (hmn : m ≤ n) (hp : 0 < p) (hpq : p ≤ q) :
    theta m q ≤ theta n p := by
  have hm' : (0 : ℝ) ≤ m := by exact_mod_cast hm
  have hmn' : (m : ℝ) ≤ n := by exact_mod_cast hmn
  have hp' : (0 : ℝ) < √p := Real.sqrt_pos.2 (by exact_mod_cast hp)
  have hpq' : √(p : ℝ) ≤ √q := Real.sqrt_le_sqrt (by exact_mod_cast hpq)
  have hpi := Real.pi_pos
  unfold theta
  exact mul_le_mul_of_nonneg_right
    (Real.arctan_strictMono.monotone (div_le_div₀ (hm'.trans hmn') hmn' hp' hpq')) (by positivity)

/-- Settles O42: the bound of the arc tangent, its zero, and monotony up to the largest numerator over the least
sum. -/
theorem idealAngleRange : Obligations.IdealAngleRange :=
  ⟨fun n q _ => abs_lt.1 (abs_theta_lt n q), theta_zero,
    fun n q hn hle hq => ⟨theta_nonneg n q hn, theta_le_theta hn hle one_pos hq⟩⟩

end Sys2Proof

/-! Proofs of the statements of spec/10_state.md: the bytes no operation reads, the invariant of every run and what it
gives a consumer, which operation writes which register, and what the valid flags become. -/

namespace Sys2Proof

open Machine

/-! ## Registers without a value -/

/-- Computing from three registers of which one holds no value gives no value (spec/10_state.md R37). -/
theorem Held.map3_of_noValue {α β γ δ : Type} (f : α → β → γ → δ) {a : Held α} {b : Held β} {c : Held γ}
    (h : a = .noValue ∨ b = .noValue ∨ c = .noValue) : Held.map3 f a b c = .noValue := by
  obtain rfl | rfl | rfl := h
  · rfl
  · cases a <;> rfl
  · cases a <;> cases b <;> rfl

/-- Settles O31: the two angle computations read all three acceleration registers, so both give no value. -/
theorem anglesOfNoValueHaveNone : Obligations.AnglesOfNoValueHaveNone := by
  intro s h
  have hroll : Held.map3 tiltAccel s.ay s.ax s.az = .noValue := Held.map3_of_noValue _ (or_left_comm.1 h)
  have hpitch : Held.map3 tiltAccel s.ax s.ay s.az = .noValue := Held.map3_of_noValue _ h
  refine ⟨⟨_, rfl, ?_⟩, ⟨_, rfl, ?_⟩, fun hr => ⟨_, exec_est_of_report hr, ?_⟩⟩
  · simp [hroll, SameReport, SameValid, SameMemory]
  · simp [hpitch, SameReport, SameValid, SameMemory]
  · simp [hroll, hpitch, hr, SameReport, SameMemory]

/-! ## A consumer's reads -/

theorem readOutput_of_holds {s : State} {r : OutReg} {n : Nat} (h : s.output r = .holds n) :
    s.readOutput r = .ok n := by
  simp [State.readOutput, h]

/-- Settles O56: the two cases of an output's content; a valid flag is a bit and not a `Held`. -/
theorem readsOfNoValueAreRefused : Obligations.ReadsOfNoValueAreRefused := fun s r =>
  ⟨(readOutput_refused_iff s r).2, fun _ => readOutput_of_holds, rfl, rfl⟩

/-- The width in bits of an output register (spec/10_state.md R20). -/
def outWidth : OutReg → Nat
  | .jx | .jy => 8
  | .ax | .ay | .az => 10
  | .roll | .pitch => 32
  | .bc | .bz | .rptValid | .rollInv | .pitchInv | .oriValid => 1

theorem lt_two_pow_of_map_toNat {w n : Nat} {h : Held (BitVec w)} (e : h.map BitVec.toNat = .holds n) :
    n < 2 ^ w := by
  cases h with
  | noValue => cases e
  | holds v => cases e; exact v.isLt

theorem lt_two_of_map_toNat {n : Nat} {h : Held Bool} (e : h.map Bool.toNat = .holds n) : n < 2 ^ 1 := by
  cases h with
  | noValue => cases e
  | holds v => cases e; exact v.toNat_lt

/-- An output's number fits the width of its register. -/
theorem output_lt_two_pow {s : State} {r : OutReg} {n : Nat} (h : s.output r = .holds n) : n < 2 ^ outWidth r := by
  cases r with
  | jx | jy | ax | ay | az | roll | pitch => exact lt_two_pow_of_map_toNat h
  | bc | bz | rollInv | pitchInv => exact lt_two_of_map_toNat h
  | rptValid | oriValid => cases h; exact Bool.toNat_lt _

/-- In a state with the invariant, an output the duty permits to be read holds a number (R38, R189). -/
theorem RunInvariant.output_holds {s : State} {r : OutReg} (h : RunInvariant s) (hr : mayRead s r = true) :
    ∃ n, s.output r = .holds n := by
  cases r with
  | rptValid | oriValid => exact ⟨_, rfl⟩
  | jx | jy | ax | ay | az | bc | bz =>
    obtain ⟨r, hjx, hjy, hax, hay, haz, hbc, hbz⟩ := h.report hr
    simp [State.output, *]
  | roll | pitch | rollInv | pitchInv =>
    obtain ⟨r, -, -, hax, hay, haz, -, -⟩ := h.report (h.oriReport hr)
    obtain ⟨hroll, hrollInv, hpitch, hpitchInv⟩ := h.estimate hr _ _ _ hax hay haz
    simp [State.output, *]

/-- Settles O57: the invariant gives the value, the register's width its bound. -/
theorem permittedReadsAreAnswered : Obligations.PermittedReadsAreAnswered := by
  intro s r h hr
  obtain ⟨n, hn⟩ := h.output_holds hr
  have hlt := output_lt_two_pow hn
  refine ⟨n, readOutput_of_holds hn, hlt.trans_le (Nat.pow_le_pow_right two_pos ?_), ?_, ?_, ?_⟩
  · cases r <;> decide
  · rintro (rfl | rfl) <;> exact hlt
  · rintro (rfl | rfl | rfl) <;> exact hlt
  · rintro (rfl | rfl | rfl | rfl | rfl | rfl) <;> exact hlt

/-! ## Fetching an operation -/

/-- Fetching writes the two fields of the host's requests and no other. -/
theorem nextOperation_eq (s : State) :
    ∃ p e, s.nextOperation.2 = { s with port := p, estPending := e } := by
  unfold State.nextOperation
  split
  · exact ⟨_, _, rfl⟩
  · split <;> exact ⟨_, _, rfl⟩

/-- Fetching neither reads nor writes the frame buffer. -/
theorem nextOperation_replace_fb (s : State) (m : Memory) :
    ({ s with fb := m } : State).nextOperation = (s.nextOperation.1, { s.nextOperation.2 with fb := m }) := by
  unfold State.nextOperation
  dsimp only
  split
  · rfl
  · split <;> rfl

/-! ## The live bytes of the frame buffer: those below `IDX` -/

/-- The index a `PUSH` below 5 moves to has one more address below it: the one it wrote. -/
theorem lt_add_one_iff_of_ne_five {i j : Fin 6} (h : j ≠ 5) : i < j + 1 ↔ i = j ∨ i < j := by
  revert i j; decide

/-! ## Dead bytes -/

/-- The second of the two states is the first with another frame buffer that agrees with it on the live bytes. -/
theorem SameButDeadBytes.exists_fb {s t : State} (h : SameButDeadBytes s t) :
    ∃ m, t = { s with fb := m } ∧ ∀ i < s.idx, ({ s with fb := m } : State).memRead i = s.memRead i := by
  obtain ⟨e, live⟩ := h
  exact ⟨t.fb, e, e ▸ live⟩

/-- States that differ in dead bytes only fetch the same operation, and still differ in dead bytes only. -/
theorem SameButDeadBytes.nextOperation {s t : State} (h : SameButDeadBytes s t) :
    t.nextOperation.1 = s.nextOperation.1 ∧ SameButDeadBytes s.nextOperation.2 t.nextOperation.2 := by
  obtain ⟨m, rfl, live⟩ := h.exists_fb
  obtain ⟨p, e, hs⟩ := nextOperation_eq s
  rw [nextOperation_replace_fb, hs]
  exact ⟨rfl, rfl, live⟩

theorem SameButDeadBytes.output_eq {s t : State} (h : SameButDeadBytes s t) (r : OutReg) :
    s.output r = t.output r := by
  obtain ⟨m, rfl, -⟩ := h.exists_fb
  cases r <;> rfl

/-- A `PUSH` writes the first dead byte, and only the completing one reads: the five live bytes below it. -/
theorem SameButDeadBytes.exec_push {s t : State} (h : SameButDeadBytes s t) (d : Byte) :
    ∃ s' t', exec (.push d) s = .next s' ∧ exec (.push d) t = .next t' ∧ SameButDeadBytes s' t' := by
  obtain ⟨m, rfl, live⟩ := h.exists_fb
  by_cases h5 : s.idx = 5
  · refine ⟨_, _, exec_push_of_five d h5, exec_push_of_five d h5, ?_, fun i hi => absurd hi i.not_lt_zero⟩
    rw [live 0 (by rw [h5]; decide), live 1 (by rw [h5]; decide), live 2 (by rw [h5]; decide),
      live 3 (by rw [h5]; decide), live 4 (by rw [h5]; decide)]
    rfl
  · refine ⟨_, _, exec_push_of_ne_five d h5, exec_push_of_ne_five d h5, rfl, fun i hi => ?_⟩
    change (({ s with fb := m } : State).memWrite s.idx d).memRead i = (s.memWrite s.idx d).memRead i
    obtain rfl | hlt := (lt_add_one_iff_of_ne_five h5).1 hi
    · rw [State.memRead_memWrite_same, State.memRead_memWrite_same]
    · rw [State.memRead_memWrite_other _ _ hlt.ne, State.memRead_memWrite_other _ _ hlt.ne, live i hlt]

/-- Every instruction takes states that differ in dead bytes only to such states: `PUSH` by the lemma above, `RESET`
and `ABORT` leave no byte live, and the rest neither read nor write the frame buffer. -/
theorem SameButDeadBytes.exec {s t : State} (h : SameButDeadBytes s t) (i : Instr) :
    ∃ s' t', exec i s = .next s' ∧ exec i t = .next t' ∧ SameButDeadBytes s' t' := by
  obtain ⟨m, rfl, live⟩ := h.exists_fb
  cases i with
  | push d => exact h.exec_push d
  | est =>
    obtain hr | hr := s.rptValid.eq_false_or_eq_true
    · exact ⟨_, _, exec_est_of_report hr, exec_est_of_report hr, rfl, live⟩
    · exact ⟨_, _, exec_est_of_no_report hr, exec_est_of_no_report hr, rfl, live⟩
  | reset | abort => exact ⟨_, _, rfl, rfl, rfl, fun i hi => absurd hi i.not_lt_zero⟩
  | _ => exact ⟨_, _, rfl, rfl, rfl, live⟩

/-- Settles O17: both states fetch the same operation, and every operation keeps the relation, in which the outputs are
equal. -/
theorem deadBytesAreNeverRead : Obligations.DeadBytesAreNeverRead := by
  intro s t h
  obtain ⟨hop, hfetch⟩ := h.nextOperation
  obtain ⟨s', t', hs, ht, h'⟩ := hfetch.exec s.nextOperation.1
  exact ⟨s', t', hs, by rw [step, hop]; exact ht, h', h'.output_eq⟩

/-! ## The angles keep their form (spec/10_state.md R39 (f)) -/

/-- The range limit holds for every numerator: zero, the clamp, and the sign flip of the clamp are in range. -/
theorem limitAngle_inRange (raw : Int → Int → Word32) (n q : Int) : inRange (limitAngle raw n q) = true := by
  unfold limitAngle
  split_ifs
  · exact inRange_zero
  · exact clampRange_inRange _
  · rw [inRange_flipSign]; exact clampRange_inRange _

/-- An angle is `QNAN` when its denominator is degenerate and in range when it is not (spec/42_tilt.md R124, R133). -/
theorem angleForm_tiltAccel (n a b : Accel) : AngleForm (.holds (tiltAccel n a b).1) (.holds (tiltAccel n a b).2) := by
  unfold tiltAccel tilt tiltWith
  split
  · rfl
  · exact limitAngle_inRange _ _ _

theorem HoldsEstimate.angleForm {s : State} {x y z : Accel} (h : HoldsEstimate s x y z) :
    AngleForm s.roll s.rollInv ∧ AngleForm s.pitch s.pitchInv := by
  obtain ⟨hroll, hrollInv, hpitch, hpitchInv⟩ := h
  rw [hroll, hrollInv, hpitch, hpitchInv]
  exact ⟨angleForm_tiltAccel _ _ _, angleForm_tiltAccel _ _ _⟩

/-! ## Every operation keeps the invariant -/

/-- One more event that carries values keeps the events' part of the invariant. -/
theorem eventHeld_append {es : List Event} {e : Event} (h : ∀ e ∈ es, eventHeld e = true) (he : eventHeld e = true) :
    ∀ e' ∈ es ++ [e], eventHeld e' = true := by
  simpa [or_imp, forall_and] using ⟨h, he⟩

/-- What the host asks for is not in the invariant. -/
theorem RunInvariant.requests {s : State} (h : RunInvariant s) (p : List Word12) (e : Bool) :
    RunInvariant { s with port := p, estPending := e } :=
  { h with }

/-- `RESET` establishes the invariant, from any state whose events carry values. -/
theorem runInvariant_of_reset {s t : State} (events : ∀ e ∈ s.trace, eventHeld e = true)
    (ht : exec .reset s = .next t) : RunInvariant t := by
  cases ht
  exact
    { memory := Memory.reset_wf
      accepted := fun i hi => absurd hi i.not_lt_zero
      report := nofun
      empty := fun _ => ⟨rfl, rfl, rfl, rfl, rfl, rfl, rfl, rfl, rfl, rfl, rfl⟩
      oriReport := nofun
      estimate := nofun
      roll := trivial
      pitch := trivial
      events := events }

/-- `ABORT` leaves no byte to be there. -/
theorem RunInvariant.abort {s : State} (h : RunInvariant s) : RunInvariant (s.setIdx 0) :=
  { h with accepted := fun i hi => absurd hi i.not_lt_zero }

/-- A byte buffered below 5 is the one more byte that `IDX` now counts. -/
theorem RunInvariant.buffer {s : State} (h : RunInvariant s) (d : Byte) (h5 : s.idx ≠ 5) :
    RunInvariant ((s.memWrite s.idx d).setIdx (s.idx + 1)) :=
  { h with
    memory := State.memWrite_wf h.memory s.idx d
    accepted := by
      intro i hi
      change ((s.memWrite s.idx d).memRead i).isHeld = true
      obtain rfl | hlt := (lt_add_one_iff_of_ne_five h5).1 hi
      · rw [State.memRead_memWrite_same, Held.isHeld_holds]
      · rw [State.memRead_memWrite_other _ _ hlt.ne]
        exact h.accepted i hlt }

/-- At 5 the first five bytes of the frame are there (R38). -/
theorem RunInvariant.fiveBytes {s : State} (h : RunInvariant s) (h5 : s.idx = 5) :
    ∃ b0 b1 b2 b3 b4, s.memRead 0 = .holds b0 ∧ s.memRead 1 = .holds b1 ∧ s.memRead 2 = .holds b2 ∧
      s.memRead 3 = .holds b3 ∧ s.memRead 4 = .holds b4 := by
  have there (i : Fin 6) (hi : i < 5) : ∃ b, s.memRead i = .holds b :=
    (Held.isHeld_iff _).1 (h.accepted i (h5 ▸ hi))
  obtain ⟨b0, h0⟩ := there 0 (by decide)
  obtain ⟨b1, h1⟩ := there 1 (by decide)
  obtain ⟨b2, h2⟩ := there 2 (by decide)
  obtain ⟨b3, h3⟩ := there 3 (by decide)
  obtain ⟨b4, h4⟩ := there 4 (by decide)
  exact ⟨b0, b1, b2, b3, b4, h0, h1, h2, h3, h4⟩

/-- Decoding six bytes gives a Report, with no Orientation current; the old angles keep their form. -/
theorem RunInvariant.complete {s : State} (h : RunInvariant s) (b0 b1 b2 b3 b4 d : Byte) :
    RunInvariant (((s.memWrite 5 d).decodeStep (.holds b0) (.holds b1) (.holds b2) (.holds b3) (.holds b4)
      (.holds d)).setIdx 0) where
  memory := State.memWrite_wf h.memory 5 d
  accepted i hi := absurd hi i.not_lt_zero
  report _ := ⟨decodeFrame ⟨b0, b1, b2, b3, b4, d⟩, rfl, rfl, rfl, rfl, rfl, rfl, rfl⟩
  empty := nofun
  oriReport := nofun
  estimate := nofun
  roll := h.roll
  pitch := h.pitch
  events := eventHeld_append h.events rfl

/-- Computing both angles from the Report makes them current. -/
theorem RunInvariant.compute {s : State} (h : RunInvariant s) (hr : s.rptValid = true) :
    RunInvariant (s.writeRoll.writePitch.newOrientationFlag.emit
      s.writeRoll.writePitch.newOrientationFlag.orientationEvent) := by
  obtain ⟨r, hrep⟩ := h.report hr
  have ⟨_, _, hx, hy, hz, _, _⟩ := hrep
  have hest := writeRoll_writePitch_holds hx hy hz
  obtain ⟨hroll, hpitch⟩ := hest.angleForm
  exact
    { memory := h.memory
      accepted := h.accepted
      report := fun _ => ⟨r, hrep⟩
      empty := fun hno => absurd (hr.symm.trans hno) nofun
      oriReport := fun _ => hr
      estimate := fun _ _ _ _ hx hy hz => writeRoll_writePitch_holds hx hy hz
      roll := hroll
      pitch := hpitch
      events := eventHeld_append h.events (by simp [State.orientationEvent, eventHeld, hx, hy, hz]) }

/-- Each of the five operations keeps the invariant (R39). -/
theorem RunInvariant.exec {i : Instr} {s t : State} (hi : i.wellFormed = true) (h : RunInvariant s)
    (ht : exec i s = .next t) : RunInvariant t := by
  cases i with
  | reset => exact runInvariant_of_reset h.events ht
  | abort => cases ht; exact h.abort
  | push d =>
    by_cases h5 : s.idx = 5
    · obtain ⟨b0, b1, b2, b3, b4, h0, h1, h2, h3, h4⟩ := h.fiveBytes h5
      rw [exec_push_of_five d h5, h0, h1, h2, h3, h4] at ht
      cases ht
      exact h.complete b0 b1 b2 b3 b4 d
    · rw [exec_push_of_ne_five d h5] at ht
      cases ht
      exact h.buffer d h5
  | est =>
    cases hr : s.rptValid
    · rw [exec_est_of_no_report hr] at ht
      cases ht
      exact h
    · rw [exec_est_of_report hr] at ht
      cases ht
      exact h.compute hr
  | idle => cases ht; exact h
  | _ => cases hi

/-- Fetching the next operation keeps the invariant. -/
theorem RunInvariant.nextOperation {s : State} (h : RunInvariant s) : RunInvariant s.nextOperation.2 := by
  obtain ⟨p, e, hs⟩ := nextOperation_eq s
  rw [hs]
  exact h.requests p e

/-- Settles O52: a step fetches one of the five operations and performs it, and both keep the invariant. -/
theorem stepKeepsTheInvariant : Obligations.StepKeepsTheInvariant := by
  intro s h
  obtain ⟨t, ht⟩ := exec_completes s.nextOperation.1 s.nextOperation.2
  exact ⟨t, ht, h.nextOperation.exec (nextOperation_wellFormed s) ht⟩

/-- Settles O53: `State.reset` is what `RESET` makes of itself, and a request touches the port only. -/
theorem resetMeetsTheInvariant : Obligations.ResetMeetsTheInvariant :=
  ⟨runInvariant_of_reset (s := State.reset) nofun rfl, fun s w h => h.requests (s.port ++ [w]) s.estPending⟩

/-- Any sequence of the five operations keeps the invariant. -/
theorem RunInvariant.perform {ops : List Instr} {s : State} (hops : ∀ i ∈ ops, i.wellFormed = true)
    (h : RunInvariant s) : ∃ t, perform ops s = .next t ∧ RunInvariant t := by
  induction ops generalizing s with
  | nil => exact ⟨s, rfl, h⟩
  | cons i ops ih =>
    obtain ⟨hi, hrest⟩ := List.forall_mem_cons.1 hops
    obtain ⟨t, ht⟩ := exec_completes i s
    rw [perform_cons_of_next ht]
    exact ih hrest (h.exec hi ht)

/-- Settles O54: `RESET` establishes the invariant, and the operations after it keep it. -/
theorem everyRunMeetsTheInvariant : Obligations.EveryRunMeetsTheInvariant := by
  intro ops s hops events
  obtain ⟨t, ht⟩ := exec_completes .reset s
  rw [perform_cons_of_next ht]
  exact (runInvariant_of_reset events ht).perform hops

/-! ## The writers of the registers, and the valid flags -/

/-- A `PUSH` below 5 leaves all but `FB` and `IDX` (spec/40_frame_ops.md R90). -/
theorem exec_push_of_ne_five_frame {s t : State} {d : Byte} (h5 : s.idx ≠ 5) (h : exec (.push d) s = .next t) :
    SameReport s t ∧ SameOrientation s t ∧ SameValid s t := by
  rw [exec_push_of_ne_five d h5] at h
  cases h
  simp [SameReport, SameOrientation, SameValid]

/-- The completing `PUSH` sets `RPT_VALID`, clears `ORI_VALID`, and leaves the Orientation registers (R91). -/
theorem exec_push_of_five_flags {s t : State} {d : Byte} (h5 : s.idx = 5) (h : exec (.push d) s = .next t) :
    t.rptValid = true ∧ t.oriValid = false ∧ SameOrientation s t := by
  rw [exec_push_of_five d h5] at h
  cases h
  simp [SameOrientation]

/-- An `EST` leaves `IDX`, `FB` and the Report with its flag, and sets `ORI_VALID` exactly with a Report
(spec/42_tilt.md R121). -/
theorem exec_est_frame {s t : State} (h : exec .est s = .next t) :
    t.idx = s.idx ∧ SameMemory s t ∧ SameReport s t ∧ t.rptValid = s.rptValid ∧
      t.oriValid = (s.oriValid || s.rptValid) := by
  cases hr : s.rptValid
  · rw [exec_est_of_no_report hr] at h
    cases h
    simp [SameMemory, SameReport, hr]
  · rw [exec_est_of_report hr] at h
    cases h
    simp [SameMemory, SameReport, hr]

/-- Settles O50: the flags of the completing `PUSH`, the frame of the others, and those of `EST`. -/
theorem validFlagsFollowTheirRules : Obligations.ValidFlagsFollowTheirRules := by
  intro s
  refine ⟨⟨_, rfl, rfl, rfl⟩, fun d => ?_, ?_, ⟨_, rfl, rfl, rfl⟩, ⟨_, rfl, rfl, rfl⟩⟩
  · obtain ⟨t, ht⟩ := exec_completes (.push d) s
    refine ⟨t, ht, ?_⟩
    by_cases h5 : s.idx = 5
    · obtain ⟨hrpt, hori, -⟩ := exec_push_of_five_flags h5 ht
      simp [hrpt, hori, h5]
    · obtain ⟨-, -, hrpt, hori⟩ := exec_push_of_ne_five_frame h5 ht
      simp [hrpt, hori, h5]
  · obtain ⟨t, ht⟩ := exec_completes .est s
    obtain ⟨-, -, -, hrpt, hori⟩ := exec_est_frame ht
    exact ⟨t, ht, hrpt, hori⟩

/-- Settles O49: operation by operation, what it may write is listed and the rest is in its frame. -/
theorem registersHaveTheirWriters : Obligations.RegistersHaveTheirWriters := by
  intro i s t hi h
  cases i with
  | reset => simp
  | abort | idle => cases h; simp [SameMemory, SameReport, SameOrientation]
  | push d =>
    by_cases h5 : s.idx = 5
    · obtain ⟨-, -, hori⟩ := exec_push_of_five_flags h5 h
      simp [h5, hori]
    · obtain ⟨hrep, hori, hrpt, hval⟩ := exec_push_of_ne_five_frame h5 h
      simp [hrep, hori, hrpt, hval]
  | est =>
    cases hr : s.rptValid
    · rw [exec_est_of_no_report hr] at h
      cases h
      simp [SameMemory, SameReport, SameOrientation, hr]
    · obtain ⟨hidx, hmem, hrep, hrpt, -⟩ := exec_est_frame h
      simp [hidx, hmem, hrep, hrpt, hr]
  | _ => cases hi

end Sys2Proof

/-! Proofs of the statements of spec/20_memory.md: what a run does is a function of its operations. -/

namespace Sys2Proof

open Machine

/-! ## Operations read the block's registers only (R60) -/

/-- States with the same registers differ in the host's requests and the emitted events only. -/
theorem exists_of_blockOf_eq {s t : State} (h : blockOf s = blockOf t) :
    ∃ p e events, t = { s with port := p, estPending := e, trace := events } :=
  ⟨t.port, t.estPending, t.trace,
    congrArg (fun b => { b with port := t.port, estPending := t.estPending, trace := t.trace }) h.symm⟩

/-- An instruction takes states with the same registers to such states and adds the same events to both traces: one
for `DECODE`, for the `PUSH` that completes a frame and for an `EST` with a Report, none for the rest. -/
theorem exec_of_blockOf_eq {s t : State} (h : blockOf s = blockOf t) (i : Instr) :
    ∃ s' t' events, exec i s = .next s' ∧ exec i t = .next t' ∧ blockOf s' = blockOf t' ∧
      s'.trace = s.trace ++ events ∧ t'.trace = t.trace ++ events := by
  obtain ⟨p, e, past, rfl⟩ := exists_of_blockOf_eq h
  cases i with
  | push d =>
    by_cases h5 : s.idx = 5
    · exact ⟨_, _, [_], exec_push_of_five d h5, exec_push_of_five d h5, rfl, rfl, rfl⟩
    · exact ⟨_, _, [], exec_push_of_ne_five d h5, exec_push_of_ne_five d h5, rfl, by simp, by simp⟩
  | est =>
    obtain hr | hr := s.rptValid.eq_false_or_eq_true
    · exact ⟨_, _, [_], exec_est_of_report hr, exec_est_of_report hr, rfl, rfl, rfl⟩
    · exact ⟨_, _, [], exec_est_of_no_report hr, exec_est_of_no_report hr, rfl, by simp, by simp⟩
  | decode f => exact ⟨_, _, [_], rfl, rfl, rfl, rfl, rfl⟩
  | _ => exact ⟨_, _, [], rfl, rfl, rfl, (List.append_nil _).symm, (List.append_nil _).symm⟩

/-- So does a sequence of operations: the events it adds are those of its operations in order. -/
theorem perform_of_blockOf_eq {s t : State} (h : blockOf s = blockOf t) (ops : List Instr) :
    ∃ s' t' events, perform ops s = .next s' ∧ perform ops t = .next t' ∧ blockOf s' = blockOf t' ∧
      s'.trace = s.trace ++ events ∧ t'.trace = t.trace ++ events := by
  induction ops generalizing s t with
  | nil => exact ⟨s, t, [], rfl, rfl, h, by simp, by simp⟩
  | cons i ops ih =>
    obtain ⟨s₁, t₁, first, hs, ht, h₁, hs₁, ht₁⟩ := exec_of_blockOf_eq h i
    obtain ⟨s', t', later, hs', ht', h', hsl, htl⟩ := ih h₁
    rw [perform_cons_of_next hs, perform_cons_of_next ht]
    exact ⟨s', t', first ++ later, hs', ht', h', by rw [hsl, hs₁, List.append_assoc],
      by rw [htl, ht₁, List.append_assoc]⟩

/-- `RESET` gives the registers of R180 and leaves the trace (assumption 4). -/
theorem exec_reset_block (s : State) :
    ∃ t, exec .reset s = .next t ∧ blockOf t = State.reset ∧ t.trace = s.trace :=
  ⟨_, rfl, rfl, rfl⟩

/-- Settles O55: `RESET` makes the registers of any two states the same, and the operations after it keep them so. -/
theorem runsDependOnTheirOperationsOnly : Obligations.RunsDependOnTheirOperationsOnly := by
  intro ops s t
  obtain ⟨s₁, hs, hsBlock, hsTrace⟩ := exec_reset_block s
  obtain ⟨t₁, ht, htBlock, htTrace⟩ := exec_reset_block t
  rw [perform_cons_of_next hs, perform_cons_of_next ht, ← hsTrace, ← htTrace]
  exact perform_of_blockOf_eq (hsBlock.trans htBlock.symm) ops

end Sys2Proof

/-! Proofs of the statements of spec/30_encoding.md: how an operation word selects its operations and a step runs them,
the bits of a frame word, and what the six pushes of a frame leave. -/

namespace Sys2Proof

open Machine

/-! ## The operation word as its control bits and its data byte (R78) -/

/-- An operation word is `C ‖ D`. -/
theorem exists_control_data (w : Word12) : ∃ (c : BitVec 4) (d : Byte), w = c ++ d :=
  ⟨w.extractLsb' 8 4, w.extractLsb' 0 8, (BitVec.extractLsb'_append_extractLsb' (w := 4) (len := 8)).symm⟩

/-- The table of R79 in the bits of `C`, with `D` the operand. -/
theorem decodePort_append (c : BitVec 4) (d : Byte) :
    decodePort (c ++ d) =
      if c.getLsbD 3 then ⟨.reset, false⟩
      else if c.getLsbD 2 then ⟨.abort, c.getLsbD 0⟩
      else if c.getLsbD 1 then ⟨.push d, c.getLsbD 0⟩
      else if c.getLsbD 0 then ⟨.est, false⟩
      else ⟨.idle, false⟩ := by
  simp only [decodePort, BitVec.getLsbD_append, BitVec.extractLsb'_append_eq_right, Nat.reduceLT, Nat.reduceSub,
    if_false]

theorem ops_eq_reset_of_le (c : BitVec 4) (d : Byte) (h : 8 ≤ c) : (decodePort (c ++ d)).ops = [.reset] := by
  have rst : c.getLsbD 3 = true := by revert c; decide
  rw [decodePort_append, rst]
  rfl

/-- The complete decode of `C[3:0]` (R79): each of the values below 8 by its own bits. -/
theorem ops_of_control_bits (w : Word12) :
    (w.extractLsb' 8 4 = 0 → (decodePort w).ops = [.idle]) ∧
    (w.extractLsb' 8 4 = 1 → (decodePort w).ops = [.est]) ∧
    (w.extractLsb' 8 4 = 2 → (decodePort w).ops = [.push (w.extractLsb' 0 8)]) ∧
    (w.extractLsb' 8 4 = 3 → (decodePort w).ops = [.push (w.extractLsb' 0 8), .est]) ∧
    (w.extractLsb' 8 4 = 4 ∨ w.extractLsb' 8 4 = 6 → (decodePort w).ops = [.abort]) ∧
    (w.extractLsb' 8 4 = 5 ∨ w.extractLsb' 8 4 = 7 → (decodePort w).ops = [.abort, .est]) ∧
    (8 ≤ w.extractLsb' 8 4 → (decodePort w).ops = [.reset]) := by
  obtain ⟨c, d, rfl⟩ := exists_control_data w
  rw [BitVec.extractLsb'_append_eq_left, BitVec.extractLsb'_append_eq_right]
  refine ⟨?_, ?_, ?_, ?_, ?_, ?_, ops_eq_reset_of_le c d⟩ <;> rw [decodePort_append]
  · rintro rfl; rfl
  · rintro rfl; rfl
  · rintro rfl; rfl
  · rintro rfl; rfl
  · rintro (rfl | rfl) <;> rfl
  · rintro (rfl | rfl) <;> rfl

/-! ## One word, one or two steps (R79) -/

/-- A request for one operation owes no `EST`. -/
theorem Request.ops_eq_singleton {r : Request} {i : Instr} (h : r.ops = [i]) : r = ⟨i, false⟩ := by
  obtain ⟨first, _ | _⟩ := r <;> simp_all [Request.ops]

/-- A request for two operations owes its second, an `EST`. -/
theorem Request.ops_eq_pair {r : Request} {i j : Instr} (h : r.ops = [i, j]) : r = ⟨i, true⟩ := by
  obtain ⟨first, _ | _⟩ := r <;> simp_all [Request.ops]

/-- With an `EST` owed, a step performs it. -/
theorem step_of_pending {s : State} (h : s.estPending = true) : step s = exec .est { s with estPending := false } := by
  rw [step, nextOperation_pending h]

/-- With a word next at the ports, a step takes it and performs its first operation. -/
theorem step_of_word {s : State} {w : Word12} {rest : List Word12} (h : s.estPending = false)
    (hp : s.port = w :: rest) :
    step s = exec (decodePort w).first { s with port := rest, estPending := (decodePort w).thenEst } := by
  rw [step, nextOperation_word h hp]

/-- Without a request, a step is `IDLE` (assumption 3). -/
theorem step_of_empty {s : State} (h : s.estPending = false) (hp : s.port = []) : step s = exec .idle s := by
  rw [step, nextOperation_empty h hp]

/-- No instruction reads whether an `EST` is owed: the next state has the same block and trace, and the request fields it
was given. -/
theorem exec_replace_estPending {i : Instr} {s t : State} (h : exec i s = .next t) (e : Bool) :
    exec i { s with estPending := e } = .next { t with estPending := e } := by
  obtain ⟨t', u, events, ht, hu, hblock, htrace, hutrace⟩ :=
    exec_of_blockOf_eq (s := s) (t := { s with estPending := e }) rfl i
  obtain rfl : t = t' := by simpa [h] using ht
  obtain ⟨hport, -⟩ := requestsAreTheHosts i _ _ h
  obtain ⟨huport, hupending⟩ := requestsAreTheHosts i _ _ hu
  obtain ⟨p, e', past, rfl⟩ := exists_of_blockOf_eq hblock
  rw [hu]
  simp_all

/-- Settles O46: a step performs what `State.nextOperation` fetches, in its three cases. -/
theorem stepRunsTheDecodedInstruction : Obligations.StepRunsTheDecodedInstruction :=
  ⟨fun _ => step_of_pending, fun _ w _ h hp => ⟨decodePort_wellFormed w, step_of_word h hp⟩, fun _ => step_of_empty⟩

/-- Settles O2: the table of R79, and a word of two operations is performed in two steps because the owed `EST` passes
through the first operation unread. -/
theorem coincidentRequestsPerformedInOrder : Obligations.CoincidentRequestsPerformedInOrder := by
  refine ⟨ops_of_control_bits, fun s w rest h hp => ⟨fun i hi => ?_, fun i hi => ?_⟩⟩
  · rw [step_of_word h hp, Request.ops_eq_singleton hi, ← h]
  · obtain ⟨t, ht⟩ := exec_completes i { s with port := rest }
    obtain ⟨u, hu⟩ := exec_completes .est t
    obtain ⟨htport, htest⟩ := requestsAreTheHosts i _ _ ht
    obtain ⟨huport, huest⟩ := requestsAreTheHosts .est _ _ hu
    have owed : t.estPending = false := htest.trans h
    refine ⟨t, u, ht, ?_, hu, ?_, huport.trans htport, huest.trans owed⟩
    · rw [step_of_word h hp, Request.ops_eq_pair hi]
      exact exec_replace_estPending ht true
    · rw [step_of_pending rfl, ← hu, ← owed]

/-! ## The opcode table's rows (R81) -/

/-- No PORT12 row has a mask bit in `D`: a row selects on `C` alone. -/
theorem selects_append (mask value c : BitVec 4) (d : Byte) :
    (RowPattern.port12 (mask ++ 0#8) (value ++ 0#8)).selects (.port12 (c ++ d)) = (c &&& mask == value) := by
  rw [RowPattern.selects, BitVec.and_append, BitVec.and_zero, Bool.eq_iff_iff, beq_iff_eq, beq_iff_eq,
    BitVec.append_left_inj]

/-- The masks of R78, in the bits of `C`. -/
theorem control_masks (c : BitVec 4) :
    (c &&& 0x8 == 0x8) = c.getLsbD 3 ∧ (c &&& 0xC == 0x4) = (!c.getLsbD 3 && c.getLsbD 2) ∧
    (c &&& 0xE == 0x2) = (!c.getLsbD 3 && !c.getLsbD 2 && c.getLsbD 1) ∧
    (c &&& 0x9 == 0x1) = (!c.getLsbD 3 && c.getLsbD 0) ∧
    (c &&& 0xF == 0x0) = (!c.getLsbD 3 && !c.getLsbD 2 && !c.getLsbD 1 && !c.getLsbD 0) := by
  revert c; decide

/-- The PORT12 rows of the table, in the bits of `C`. -/
theorem selectsRow_append (c : BitVec 4) (d : Byte) :
    selectsRow "RESET" (.port12 (c ++ d)) = c.getLsbD 3 ∧
    selectsRow "ABORT" (.port12 (c ++ d)) = (!c.getLsbD 3 && c.getLsbD 2) ∧
    selectsRow "PUSH" (.port12 (c ++ d)) = (!c.getLsbD 3 && !c.getLsbD 2 && c.getLsbD 1) ∧
    selectsRow "EST" (.port12 (c ++ d)) = (!c.getLsbD 3 && c.getLsbD 0) ∧
    selectsRow "IDLE" (.port12 (c ++ d)) = (!c.getLsbD 3 && !c.getLsbD 2 && !c.getLsbD 1 && !c.getLsbD 0) ∧
    selectsRow "ROLL" (.port12 (c ++ d)) = (!c.getLsbD 3 && c.getLsbD 0) ∧
    selectsRow "PITCH" (.port12 (c ++ d)) = (!c.getLsbD 3 && c.getLsbD 0) := by
  obtain ⟨reset, abort, push, est, idle⟩ := control_masks c
  rw [← idle, ← push, ← abort, ← est, ← reset, ← selects_append 0x8 0x8 c d, ← selects_append 0xC 0x4 c d,
    ← selects_append 0xE 0x2 c d, ← selects_append 0x9 0x1 c d, ← selects_append 0xF 0x0 c d]
  simp [selectsRow, opcodeTable]

theorem Request.mem_ops {r : Request} {i : Instr} : i ∈ r.ops ↔ i = r.first ∨ (r.thenEst = true ∧ i = .est) := by
  obtain ⟨first, _ | _⟩ := r <;> simp [Request.ops]

/-- The operations a word asks for, in the bits of `C` (R79). -/
theorem mem_ops_append (c : BitVec 4) (d : Byte) :
    (.reset ∈ (decodePort (c ++ d)).ops ↔ c.getLsbD 3 = true) ∧
    (.abort ∈ (decodePort (c ++ d)).ops ↔ (!c.getLsbD 3 && c.getLsbD 2) = true) ∧
    (.push d ∈ (decodePort (c ++ d)).ops ↔ (!c.getLsbD 3 && !c.getLsbD 2 && c.getLsbD 1) = true) ∧
    (.est ∈ (decodePort (c ++ d)).ops ↔ (!c.getLsbD 3 && c.getLsbD 0) = true) ∧
    (.idle ∈ (decodePort (c ++ d)).ops ↔
      (!c.getLsbD 3 && !c.getLsbD 2 && !c.getLsbD 1 && !c.getLsbD 0) = true) := by
  simp only [Request.mem_ops, decodePort_append]
  generalize c.getLsbD 3 = rst, c.getLsbD 2 = abort, c.getLsbD 1 = push, c.getLsbD 0 = est
  split_ifs with h3 h2 h1 h0
  · simp [h3]
  · simp [h3, h2]
  · simp [h3, h2, h1]
  · simp [h3, h2, h1, h0]
  · simp [h3, h2, h1, h0]

/-- A frame selects every REPORT48 row: their masks are 0. -/
theorem selectsRow_report48 (F : Word48) (m : String)
    (h : m ∈ ["DECODE", "JX", "JY", "AX", "AY", "AZ", "BC", "BZ"]) : selectsRow m (.report48 F) = true := by
  have selected : (RowPattern.report48 0#48 0#48).selects (.report48 F) = true := by simp [RowPattern.selects]
  refine List.any_eq_true.2 ⟨(m, .report48 0#48 0#48), ?_, by simp [selected]⟩
  revert m; decide

/-- Settles O3: the rows and the operations are the same functions of the bits of `C`. -/
theorem opcodeRowsSelectExactly : Obligations.OpcodeRowsSelectExactly := by
  refine ⟨fun w => ?_, selectsRow_report48⟩
  obtain ⟨c, d, rfl⟩ := exists_control_data w
  obtain ⟨rowReset, rowAbort, rowPush, rowEst, rowIdle, rowRoll, rowPitch⟩ := selectsRow_append c d
  obtain ⟨opReset, opAbort, opPush, opEst, opIdle⟩ := mem_ops_append c d
  rw [BitVec.extractLsb'_append_eq_right, rowReset, rowAbort, rowPush, rowEst, rowIdle, rowRoll, rowPitch]
  exact ⟨opReset.symm, opAbort.symm, opPush.symm, opEst.symm, opIdle.symm, opEst.symm, opEst.symm⟩

/-! ## The fields of a frame word (R70 to R75) -/

/-- Each field of a Report as its own bits of the frame: an acceleration value is its high byte above two bits of the
status byte, a button the complement of one (R73, R74). -/
theorem decodeFrame_eq (f : Frame) :
    decodeFrame f = ⟨f.b0, f.b1, f.b2 ++ f.b5.extractLsb' 2 2, f.b3 ++ f.b5.extractLsb' 4 2,
      f.b4 ++ f.b5.extractLsb' 6 2, !f.b5.getLsbD 1, !f.b5.getLsbD 0⟩ := by
  simp only [decodeFrame, accelX, accelY, accelZ, accelOf_eq_append, buttonC_eq, buttonZ_eq]

/-- Settles O5: the fields of `decodeFrame`, in which the status byte's bits are the frame word's low bits. -/
theorem reportFieldsOfTheFrameWord : Obligations.ReportFieldsOfTheFrameWord := by
  intro F
  rw [decodeFrame_eq]
  simp [Frame.ofWord, BitVec.extractLsb'_extractLsb'_of_le]

/-! ## `decode` undoes `pack` (R85) -/

theorem releasedBit_getElem (b : Bool) {i : Nat} (hi : i < 8) : (releasedBit b)[i] = (decide (i = 0) && !b) := by
  cases b <;> simp [releasedBit]

/-- The status byte of `pack`, part by part: the low bits of the three acceleration values, and the buttons released. -/
theorem pack_status (r : Report) :
    r.pack.b5.extractLsb' 2 2 = r.ax.extractLsb' 0 2 ∧ r.pack.b5.extractLsb' 4 2 = r.ay.extractLsb' 0 2 ∧
    r.pack.b5.extractLsb' 6 2 = r.az.extractLsb' 0 2 ∧ r.pack.b5.getLsbD 1 = !r.bc ∧
    r.pack.b5.getLsbD 0 = !r.bz := by
  refine ⟨?_, ?_, ?_, ?_, ?_⟩
  · ext i hi
    interval_cases i <;> simp [Report.pack, releasedBit_getElem]
  · ext i hi
    interval_cases i <;> simp [Report.pack, releasedBit_getElem]
  · ext i hi
    interval_cases i <;> simp [Report.pack, releasedBit_getElem]
  · simp [Report.pack, releasedBit_getElem]
  · simp [Report.pack, releasedBit_getElem]

/-- An acceleration value is its upper eight bits above its lower two. -/
theorem high_append_low (a : Accel) : (a >>> 2).setWidth 8 ++ a.extractLsb' 0 2 = a := by
  have high : (a >>> 2).setWidth 8 = a.extractLsb' 2 8 := by ext i hi; simp
  rw [high]
  exact BitVec.extractLsb'_append_extractLsb' (w := 8) (len := 2)

theorem decodeFrame_pack (r : Report) : decodeFrame r.pack = r := by
  obtain ⟨hx, hy, hz, hc, hb⟩ := pack_status r
  rw [decodeFrame_eq, hx, hy, hz, hc, hb]
  simp [Report.pack, high_append_low]

/-! ## The completing `PUSH` (spec/40_frame_ops.md R91) -/

/-- The first five bytes of the frame are buffered. -/
def HoldsFirstFive (s : State) (f : Frame) : Prop :=
  s.memRead 0 = .holds f.b0 ∧ s.memRead 1 = .holds f.b1 ∧ s.memRead 2 = .holds f.b2 ∧ s.memRead 3 = .holds f.b3 ∧
    s.memRead 4 = .holds f.b4

/-- The sixth byte of a frame whose first five are buffered decodes it and completes it in `FB`. -/
theorem exec_push_completes {f : Frame} {s : State} (h5 : s.idx = 5) (hfive : HoldsFirstFive s f) :
    ∃ t, exec (.push f.b5) s = .next t ∧ HoldsReport t (decodeFrame f) ∧ HoldsFrame t f ∧ t.idx = 0 := by
  obtain ⟨h0, h1, h2, h3, h4⟩ := hfive
  refine ⟨_, exec_push_of_five f.b5 h5, ?_, ?_, rfl⟩ 
  · simp [HoldsReport, decodeFrame, *]
  · have other {a : Nat} (ha : a ≠ 5) := s.fb.read_write_other f.b5 ha
    exact ⟨(other (by decide)).trans h0, (other (by decide)).trans h1, (other (by decide)).trans h2,
      (other (by decide)).trans h3, (other (by decide)).trans h4, s.fb.read_write_same 5 f.b5⟩

/-- The frame buffer with a frame's first five bytes written. -/
def Frame.bufferFive (f : Frame) (m : Memory) : Memory :=
  ((((m.write 0 f.b0).write 1 f.b1).write 2 f.b2).write 3 f.b3).write 4 f.b4

/-- The five bytes are there, whatever the buffer held. -/
theorem holdsFirstFive_of_bufferFive {f : Frame} {s : State} {m : Memory} (h : s.fb = f.bufferFive m) :
    HoldsFirstFive s f := by
  simp [HoldsFirstFive, State.memRead, h, Frame.bufferFive, Memory.read_write]

/-! ## The pushes of a frame (R84) -/

/-- A `PUSH` below 5 buffers its byte and the rest of the sequence follows. -/
theorem perform_push_cons {s : State} {i : Fin 6} (d : Byte) (ops : List Instr) (hi : s.idx = i) (h5 : i ≠ 5) :
    perform (.push d :: ops) s = perform ops ((s.memWrite i d).setIdx (i + 1)) := by
  subst hi
  exact perform_cons_of_next (exec_push_of_ne_five d h5) ops

/-- From `IDX = 0` the first five pushes of a frame buffer its bytes and the sixth is left to perform. -/
theorem perform_pushes (f : Frame) {s : State} (h : s.idx = 0) :
    perform f.pushes s = exec (.push f.b5) { s with idx := 5, fb := f.bufferFive s.fb } := by
  rw [Frame.pushes, perform_push_cons f.b0 _ h (by decide), perform_push_cons (i := 1) f.b1 _ rfl (by decide),
    perform_push_cons (i := 2) f.b2 _ rfl (by decide), perform_push_cons (i := 3) f.b3 _ rfl (by decide),
    perform_push_cons (i := 4) f.b4 _ rfl (by decide)]
  obtain ⟨t, ht⟩ := exec_completes (.push f.b5) { s with idx := 5, fb := f.bufferFive s.fb }
  exact (perform_cons_of_next ht []).trans ht.symm

/-- Settles O14: the first five pushes touch `IDX` and `FB` only, and the sixth completes the frame. -/
theorem sixPushesDecodeTheirFrame : Obligations.SixPushesDecodeTheirFrame := by
  intro f s h
  obtain ⟨t, ht, hreport, hframe, hidx⟩ := exec_push_completes (f := f)
    (s := { s with idx := 5, fb := f.bufferFive s.fb }) rfl (holdsFirstFive_of_bufferFive rfl)
  obtain ⟨hrpt, hori, hsame⟩ := exec_push_of_five_flags rfl ht
  have htrace := exec_push_of_five_trace rfl ht
  exact ⟨t, (perform_pushes f h).trans ht, hreport, hframe, hidx, hrpt, hori, hsame, htrace⟩

/-! ## `POLL` (R84) -/

theorem perform_append_of_next {ops : List Instr} {s t : State} (h : perform ops s = .next t) (more : List Instr) :
    perform (ops ++ more) s = perform more t := by
  induction ops generalizing s with
  | nil => cases h; rfl
  | cons i ops ih =>
    obtain ⟨u, hu⟩ := exec_completes i s
    rw [perform_cons_of_next hu] at h
    rw [List.cons_append, perform_cons_of_next hu]
    exact ih h

/-- An `EST` with a Report leaves the estimate of its acceleration values (spec/42_tilt.md R121). -/
theorem exec_est_estimate {s t : State} {r : Report} (hr : s.rptValid = true) (hreport : HoldsReport s r)
    (h : exec .est s = .next t) : HoldsEstimate t r.ax r.ay r.az := by
  obtain ⟨-, -, hx, hy, hz, -, -⟩ := hreport
  rw [exec_est_of_report hr] at h
  cases h
  exact writeRoll_writePitch_holds hx hy hz

/-- Registers that are the same hold the same Report. -/
theorem HoldsReport.of_same {s t : State} {r : Report} (h : HoldsReport s r) (e : SameReport s t) : HoldsReport t r := by
  obtain ⟨jx, jy, ax, ay, az, bc, bz⟩ := e
  rw [HoldsReport, jx, jy, ax, ay, az, bc, bz]
  exact h

/-- Settles O44: the `EST` after the six pushes finds their Report, computes from it and leaves it there. -/
theorem pollEstimatesItsFrame : Obligations.PollEstimatesItsFrame := by
  intro f s h
  obtain ⟨t, ht, hreport, -, hidx, hrpt, -, -, htrace⟩ := sixPushesDecodeTheirFrame f s h
  obtain ⟨u, hu⟩ := exec_completes .est t
  obtain ⟨huidx, -, hsame, hurpt, huori⟩ := exec_est_frame hu
  have run : perform (f.pushes ++ [.est]) s = .next u := by
    rw [perform_append_of_next ht, perform_cons_of_next hu, perform]
  have events : u.trace = s.trace ++ [.report u.jx u.jy u.ax u.ay u.az u.bc u.bz] ++
      [.orientation u.roll u.rollInv u.pitch u.pitchInv] := by
    obtain ⟨jx, jy, ax, ay, az, bc, bz⟩ := hsame
    rw [exec_est_of_report_trace hrpt hu, htrace, jx, jy, ax, ay, az, bc, bz]
  exact ⟨u, run, hreport.of_same hsame, exec_est_estimate hrpt hreport hu, hurpt.trans hrpt, by simp [huori, hrpt],
    huidx.trans hidx, events⟩

/-! ## Words placed for the next step (assumptions 3 and 6) -/

/-- An operation word is placed unchanged at the front of the port. -/
theorem withFetchWord_port12 (s : State) (w : Word12) :
    s.withFetchWord 16 w.toNat = { s with port := w :: s.port, estPending := false } := by
  have := w.isLt
  simp (disch := omega) [State.withFetchWord, State.placeWord, Nat.mod_eq_of_lt]

theorem withFetchWord_report48 (s : State) (F : Word48) :
    s.withFetchWord 48 F.toNat = s.placeFrame (Frame.ofWord F) := by
  simp [State.withFetchWord, State.placeWord]

/-- The step after a frame is placed is the `PUSH` of its sixth byte on its first five. -/
theorem step_placeFrame (s : State) (f : Frame) :
    step (s.placeFrame f) =
      exec (.push f.b5) { s with idx := 5, fb := f.bufferFive s.fb, estPending := false } := by
  rw [step_of_word (w := pushWord f.b5) (rest := s.port) rfl rfl, decodePort_pushWord]
  rfl

/-- Settles O47: a placed word is the next one at the ports, and a placed frame is the state its completing `PUSH`
needs. -/
theorem placedWordsRunNext : Obligations.PlacedWordsRunNext := by
  refine ⟨fun s w => ?_, fun s F => ?_⟩
  · rw [withFetchWord_port12, step_of_word rfl rfl]
  · obtain ⟨t, ht, hreport, hframe, hidx⟩ := exec_push_completes (f := Frame.ofWord F)
      (s := { s with idx := 5, fb := (Frame.ofWord F).bufferFive s.fb, estPending := false }) rfl
      (holdsFirstFive_of_bufferFive rfl)
    obtain ⟨hrpt, -, -⟩ := exec_push_of_five_flags rfl ht
    obtain ⟨hport, -⟩ := requestsAreTheHosts _ _ _ ht
    exact ⟨t, by rw [withFetchWord_report48, step_placeFrame, ht], hreport, hframe, hrpt, hidx, hport⟩

/-! ## Script lines (R83, R84) -/

/-- A script line writes only the five operations. -/
theorem scriptLine_ops_wellFormed (l : ScriptLine) : ∀ i ∈ l.ops, i.wellFormed = true := by
  cases l <;> simp [ScriptLine.ops, Frame.pushes, Instr.wellFormed]

/-- Assembled words decode back, one operation for each. -/
theorem flatMap_ops_encode {ops : List Instr} (h : ∀ i ∈ ops, i.wellFormed = true) :
    (ops.map encode).flatMap Encoded.ops = ops := by
  induction ops with
  | nil => rfl
  | cons i ops ih =>
    obtain ⟨hi, hrest⟩ := List.forall_mem_cons.1 h
    rw [List.map_cons, List.flatMap_cons, ops_encode (.inl hi), ih hrest, List.singleton_append]

/-- A button operand in its range is the number of the Boolean it is taken for. -/
theorem toNat_decide_eq_one {b : Nat} (h : b < 2) : (decide (b = 1)).toNat = b := by
  interval_cases b <;> rfl

/-- Settles O7: the encoding line by line, and for `REPORT` six pushes of a packed Report, which decode to it. -/
theorem scriptLinesAssembleAndRun : Obligations.ScriptLinesAssembleAndRun := by
  refine ⟨fun l => ⟨flatMap_ops_encode (scriptLine_ops_wellFormed l), scriptLine_ops_wellFormed l⟩, ?_⟩
  intro s jx jy ax ay az bc bz h hwf
  obtain ⟨t, ht, hreport, -, hidx, hrpt, -, -, -⟩ := sixPushesDecodeTheirFrame
    (Report.pack ⟨BitVec.ofNat 8 jx, BitVec.ofNat 8 jy, BitVec.ofNat 10 ax, BitVec.ofNat 10 ay, BitVec.ofNat 10 az,
      decide (bc = 1), decide (bz = 1)⟩) s h
  rw [decodeFrame_pack] at hreport
  obtain ⟨hjx, hjy, hax, hay, haz, hbc, hbz⟩ := hreport
  simp only [ScriptLine.wellFormed, inByte, inAccel, inBit, Bool.and_eq_true, decide_eq_true_eq] at hwf
  obtain ⟨⟨⟨⟨⟨⟨ljx, ljy⟩, lax⟩, lay⟩, laz⟩, lbc⟩, lbz⟩ := hwf
  refine ⟨t, ht, hidx, hrpt, ?_⟩
  rw [hjx, hjy, hax, hay, haz, hbc, hbz]
  simp [toNat_decide_eq_one, Nat.mod_eq_of_lt, *]

end Sys2Proof

/-! Proofs of the statements of spec/40_frame_ops.md: `PUSH`, `ABORT`, `IDLE` and `DECODE` with what each leaves
unchanged, and frames counted in sixes of pushes. -/

namespace Sys2Proof

open Machine

/-! ## `ABORT` (R92) -/

theorem decodePort_first_of_abort {w : Word12} (hrst : w.getLsbD 11 = false) (habort : w.getLsbD 10 = true) :
    (decodePort w).first = .abort := by
  rw [decodePort, hrst, habort]
  rfl

theorem setIdx_of_idx_eq {s : State} {i : Fin 6} (h : s.idx = i) : s.setIdx i = s := by
  subst h; rfl

/-- Settles O9: `ABORT` is `State.setIdx 0`, and what it leaves is the start of a frame, whose six pushes do not depend
on the bytes in `FB`. -/
theorem abortResult : Obligations.AbortResult := by
  refine ⟨rfl, fun _ => decodePort_first_of_abort, fun s => ⟨s.setIdx 0, rfl, rfl, fun _ => rfl, ?_, ?_, ?_, rfl,
    setIdx_of_idx_eq, fun f => ?_⟩⟩
  · simp [SameReport]
  · simp [SameOrientation]
  · simp [SameValid]
  · obtain ⟨u, hu, hreport, -⟩ := sixPushesDecodeTheirFrame f (s.setIdx 0) rfl
    exact ⟨u, hu, hreport⟩

/-! ## `IDLE` (R94) -/

theorem exec_idle (s : State) : exec .idle s = .next s := rfl

/-- Deleting every `IDLE` from a sequence of operations leaves its outcome. -/
theorem perform_filter_ne_idle (ops : List Instr) (s : State) :
    perform (ops.filter (· ≠ .idle)) s = perform ops s := by
  induction ops generalizing s with
  | nil => rfl
  | cons i ops ih =>
    by_cases hi : i = .idle
    · subst hi
      rw [List.filter_cons_of_neg (by simp), perform_cons_of_next (exec_idle s), ih]
    · obtain ⟨t, ht⟩ := exec_completes i s
      rw [List.filter_cons_of_pos (by simpa using hi), perform_cons_of_next ht, perform_cons_of_next ht, ih]

/-- Settles O10: `IDLE` answers the state it was given, so a run may leave it out. -/
theorem idleLeavesRunsUnchanged : Obligations.IdleLeavesRunsUnchanged := by
  refine ⟨rfl, fun w => ?_, exec_idle, perform_filter_ne_idle⟩
  obtain ⟨idle, -⟩ := ops_of_control_bits w
  exact idle

/-! ## `PUSH` (R90, R91) -/

/-- In both cases a `PUSH` stores its byte at `IDX`, advances `IDX`, and leaves the Orientation registers. -/
theorem exec_push_frame {s t : State} {d : Byte} (h : exec (.push d) s = .next t) :
    t.fb = s.fb.write s.idx.val d ∧ t.idx = nextIdx s.idx ∧ SameOrientation s t := by
  by_cases h5 : s.idx = 5
  · obtain ⟨-, -, hori⟩ := exec_push_of_five_flags h5 h
    rw [exec_push_of_five d h5] at h
    cases h
    exact ⟨by simp [h5], by simp [h5], hori⟩
  · obtain ⟨-, hori, -⟩ := exec_push_of_ne_five_frame h5 h
    rw [exec_push_of_ne_five d h5] at h
    cases h
    exact ⟨rfl, (nextIdx_of_ne h5).symm, hori⟩

/-- A `PUSH` changes the one address it stores at. -/
theorem exec_push_read {s t : State} {d : Byte} (h : exec (.push d) s = .next t) :
    t.fb.read s.idx.val = .holds d ∧ ∀ a, a ≠ s.idx.val → t.fb.read a = s.fb.read a := by
  obtain ⟨hfb, -, -⟩ := exec_push_frame h
  rw [hfb]
  exact ⟨s.fb.read_write_same _ d, fun a ha => s.fb.read_write_other d ha⟩

/-- The index after a `PUSH`, as the transition table of R95 gives it. -/
theorem nextIdx_val_eq_ite (i : Fin 6) : (nextIdx i).val = if i.val = 5 then 0 else i.val + 1 := by
  revert i; decide

/-- A `PUSH` below 5 emits nothing. -/
theorem exec_push_of_ne_five_trace {s t : State} {d : Byte} (h5 : s.idx ≠ 5) (h : exec (.push d) s = .next t) :
    t.trace = s.trace :=
  exec_trace_unchanged (i := .push d) rfl (fun ⟨_, _, e⟩ => h5 e) (fun ⟨e, _⟩ => nomatch e) h

/-- The Report registers after the completing `PUSH`, whether or not the buffered bytes hold values (assumption 1). -/
theorem exec_push_of_five_report {s t : State} {d : Byte} (h5 : s.idx = 5) (h : exec (.push d) s = .next t) :
    t.jx = s.fb.read 0 ∧ t.jy = s.fb.read 1 ∧ t.ax = Held.map2 accelX (s.fb.read 2) (.holds d) ∧
      t.ay = Held.map2 accelY (s.fb.read 3) (.holds d) ∧ t.az = Held.map2 accelZ (s.fb.read 4) (.holds d) ∧
      t.bc = .holds (buttonC d) ∧ t.bz = .holds (buttonZ d) := by
  rw [exec_push_of_five d h5] at h
  cases h
  exact ⟨rfl, rfl, rfl, rfl, rfl, rfl, rfl⟩

/-- Settles O11: the store and the index of every `PUSH`, then the two cases of what else it writes. -/
theorem pushResult : Obligations.PushResult := by
  intro d s
  obtain ⟨t, ht⟩ := exec_completes (.push d) s
  obtain ⟨hread, hother⟩ := exec_push_read ht
  obtain ⟨-, hidx, hori⟩ := exec_push_frame ht
  refine ⟨rfl, t, ht, hread, hother, hori, fun hlt => ?_, fun heq => ?_⟩
  · have h5 : s.idx ≠ 5 := fun e => absurd (e ▸ hlt) (by decide)
    obtain ⟨hreport, -, hvalid⟩ := exec_push_of_ne_five_frame h5 ht
    exact ⟨by rw [hidx, nextIdx_val_eq_ite, if_neg hlt.ne], hreport, hvalid, exec_push_of_ne_five_trace h5 ht⟩
  · have h5 : s.idx = 5 := Fin.ext heq
    obtain ⟨hrpt, hovalid, -⟩ := exec_push_of_five_flags h5 ht
    obtain ⟨hjx, hjy, hax, hay, haz, hbc, hbz⟩ := exec_push_of_five_report h5 ht
    exact ⟨by rw [hidx, nextIdx_val_eq_ite, if_pos heq], hrpt, hovalid, hjx, hjy, hax, hay, haz, hbc, hbz,
      exec_push_of_five_trace h5 ht⟩

/-- Settles O12: the completing `PUSH` of a frame whose first five bytes are buffered, its sixth byte the operand. -/
theorem completingPushDecodes : Obligations.CompletingPushDecodes := by
  intro b0 b1 b2 b3 b4 d s h5 h0 h1 h2 h3 h4
  obtain ⟨t, ht, hreport, -, hidx⟩ := exec_push_completes (f := ⟨b0, b1, b2, b3, b4, d⟩) h5 ⟨h0, h1, h2, h3, h4⟩
  obtain ⟨hread, hother⟩ := exec_push_read ht
  obtain ⟨hrpt, hovalid, hori⟩ := exec_push_of_five_flags h5 ht
  have htrace := exec_push_of_five_trace h5 ht
  rw [h5] at hread hother
  refine ⟨t, ht, hreport, hread, hother, hrpt, hovalid, hidx, hori, ?_⟩
  obtain ⟨hjx, hjy, hax, hay, haz, hbc, hbz⟩ := hreport
  rw [htrace, hjx, hjy, hax, hay, haz, hbc, hbz]
  rfl

/-- Settles O15: after the six pushes `IDX` is 0 again, so the seventh byte is buffered at address 0 and the Report
stays. -/
theorem seventhByteStartsAFrame : Obligations.SeventhByteStartsAFrame := by
  intro f x s h
  obtain ⟨t, ht, hreport, -, hidx, -⟩ := sixPushesDecodeTheirFrame f s h
  obtain ⟨u, hu⟩ := exec_completes (.push x) t
  have run : perform (f.pushes ++ [.push x]) s = .next u := by
    rw [perform_append_of_next ht, perform_cons_of_next hu, perform]
  obtain ⟨hsame, -⟩ := exec_push_of_ne_five_frame (by rw [hidx]; decide) hu
  obtain ⟨hread, -⟩ := exec_push_read hu
  obtain ⟨-, huidx, -⟩ := exec_push_frame hu
  rw [hidx] at hread huidx
  exact ⟨u, run, hreport.of_same hsame, hread, huidx⟩

/-! ## `DECODE` (R93) -/

/-- No operation word requests `DECODE`: a word's operations are of the five. -/
theorem decode_notMem_ops (w : Word12) (f : Frame) : .decode f ∉ (decodePort w).ops := by
  rw [Request.mem_ops]
  rintro (h | ⟨-, h⟩)
  · have wf := decodePort_wellFormed w
    rw [← h] at wf
    cases wf
  · cases h

/-- An acceleration value as a number: its high byte above two bits of the status byte
(spec/41_field_extraction.md R103 to R105). -/
theorem accelOf_toNat (shift : Nat) (high status : Byte) :
    (accelOf shift high status).toNat = 4 * high.toNat + status.toNat / 2 ^ shift % 4 := by
  have low : status.toNat / 2 ^ shift % 4 < 2 ^ 2 := Nat.mod_lt _ (by decide)
  rw [accelOf_eq_append, BitVec.toNat_append, BitVec.extractLsb'_toNat, Nat.shiftRight_eq_div_pow,
    ← Nat.shiftLeft_add_eq_or_of_lt low, Nat.shiftLeft_eq, Nat.mul_comm]

theorem toNat_not (b : Bool) : (!b).toNat = 1 - b.toNat := by cases b <;> rfl

theorem buttonC_toNat (b5 : Byte) : (buttonC b5).toNat = 1 - b5.toNat / 2 % 2 := by
  rw [buttonC_eq, toNat_not, BitVec.getLsbD, Nat.toNat_testBit]

theorem buttonZ_toNat (b5 : Byte) : (buttonZ b5).toNat = 1 - b5.toNat % 2 := by
  rw [buttonZ_eq, toNat_not, BitVec.getLsbD, Nat.toNat_testBit, pow_zero, Nat.div_one]

/-- Settles O13: `State.decodeStep` on six bytes writes the fields of `decodeFrame`, here as numbers. -/
theorem decodeStepResult : Obligations.DecodeStepResult := by
  refine ⟨fun _ => rfl, decode_notMem_ops, fun f s => ⟨_, _, _, _, _, _, rfl, rfl, rfl, rfl, rfl, rfl, rfl, rfl,
    accelOf_toNat 2 f.b2 f.b5, accelOf_toNat 4 f.b3 f.b5, accelOf_toNat 6 f.b4 f.b5, buttonC_toNat f.b5,
    buttonZ_toNat f.b5, rfl, rfl, rfl, rfl, fun _ => rfl, ?_⟩⟩
  simp [SameOrientation]

/-! ## Frames counted in sixes (R95) -/

/-- The bytes a run has accepted: six for each frame completed, and those of the frame now begun. -/
def acceptedBytes (s : State) : Nat := 6 * s.trace.countP isReport + s.idx.val

/-- A `PUSH` accepts one byte, also where it completes a frame and `IDX` wraps. -/
theorem acceptedBytes_push {s t : State} {d : Byte} (h : exec (.push d) s = .next t) :
    acceptedBytes t = acceptedBytes s + 1 := by
  obtain ⟨-, hidx, -⟩ := exec_push_frame h
  by_cases h5 : s.idx = 5
  · simp [acceptedBytes, exec_push_of_five_trace h5 h, hidx, h5, isReport, Nat.mul_add]
  · have hne : s.idx.val ≠ 5 := fun e => h5 (Fin.ext e)
    rw [acceptedBytes, exec_push_of_ne_five_trace h5 h, hidx, nextIdx_val_eq_ite, if_neg hne]
    rfl

/-- An `EST` accepts none: it leaves `IDX`, and its event is no `REPORT`. -/
theorem acceptedBytes_est {s t : State} (h : exec .est s = .next t) : acceptedBytes t = acceptedBytes s := by
  obtain ⟨hidx, -⟩ := exec_est_frame h
  cases hr : s.rptValid
  · rw [exec_est_of_no_report hr] at h
    cases h
    rfl
  · simp [acceptedBytes, exec_est_of_report_trace hr h, hidx, isReport]

/-- A sequence of `PUSH`, `EST` and `IDLE` accepts as many bytes as it has pushes. -/
theorem acceptedBytes_perform {ops : List Instr} {s t : State}
    (hops : ∀ i ∈ ops, i = .est ∨ i = .idle ∨ ∃ d, i = .push d) (h : perform ops s = .next t) :
    acceptedBytes t = acceptedBytes s + ops.countP isPush := by
  induction ops generalizing s with
  | nil => cases h; rfl
  | cons i ops ih =>
    obtain ⟨hi, hrest⟩ := List.forall_mem_cons.1 hops
    obtain ⟨u, hu⟩ := exec_completes i s
    rw [perform_cons_of_next hu] at h
    rw [ih hrest h]
    obtain rfl | rfl | ⟨d, rfl⟩ := hi
    · rw [acceptedBytes_est hu]; rfl
    · cases hu; rfl
    · rw [acceptedBytes_push hu, List.countP_cons_of_pos rfl, Nat.add_right_comm, Nat.add_assoc]

/-- Settles O16: six times the frames completed, plus `IDX`, is the number of bytes accepted, and `IDX` is its
remainder. -/
theorem framesAreCountedInSixes : Obligations.FramesAreCountedInSixes := by
  refine ⟨fun s => ⟨_, rfl, rfl⟩, fun s => ⟨_, rfl, rfl⟩, fun d s => ?_, fun s => ?_, fun s => ⟨_, rfl, rfl⟩,
    fun ops s h0 hops => ?_⟩
  · obtain ⟨t, ht⟩ := exec_completes (.push d) s
    obtain ⟨-, hidx, -⟩ := exec_push_frame ht
    exact ⟨t, ht, hidx ▸ nextIdx_val_eq_ite s.idx⟩
  · obtain ⟨t, ht⟩ := exec_completes .est s
    obtain ⟨hidx, -⟩ := exec_est_frame ht
    exact ⟨t, ht, hidx⟩
  · obtain ⟨t, ht⟩ := perform_completes ops s
    have count := acceptedBytes_perform hops ht
    have hlt := t.idx.isLt
    simp only [acceptedBytes, h0, Fin.val_zero] at count
    exact ⟨t, ht, by omega, by omega⟩

end Sys2Proof

/-! Proofs of the statements of spec/41_field_extraction.md: the field extractions with what each leaves unchanged, the
two parts of an acceleration value, and `decode` as a bijection that each status bit reaches in one field. -/

namespace Sys2Proof

open Machine

/-! ## An acceleration value and its two parts (R103 to R105, R111) -/

/-- The shifted byte and the masked field share no set bit: the first has bits 2 and up, the second bits 0 and 1. -/
theorem high_and_field_eq_zero (shift : Nat) (high status : Byte) :
    (high.setWidth 10 <<< 2 : Accel) &&& ((status >>> shift) &&& 0b11).setWidth 10 = 0 := by
  apply BitVec.eq_of_getLsbD_eq
  intro i hi
  rw [BitVec.getLsbD_and, BitVec.getLsbD_shiftLeft, BitVec.getLsbD_setWidth, BitVec.getLsbD_setWidth,
    BitVec.getLsbD_and, getLsbD_maskThree]
  by_cases h2 : i < 2 <;> simp [h2]

/-- Settles O23: no bit is set in both parts, so their or is their sum; as a concatenation it is the number. -/
theorem accelerationPartsAreDisjoint : Obligations.AccelerationPartsAreDisjoint := by
  intro shift high status
  have disjoint := high_and_field_eq_zero shift high status
  exact ⟨disjoint, (BitVec.add_eq_or_of_and_eq_zero _ _ disjoint).symm, accelOf_eq_append shift high status,
    accelOf_toNat shift high status⟩

theorem accelOf_high (shift : Nat) (high status : Byte) : (accelOf shift high status).extractLsb' 2 8 = high := by
  rw [accelOf_eq_append]
  exact BitVec.extractLsb'_append_eq_left

theorem accelOf_low (shift : Nat) (high status : Byte) :
    (accelOf shift high status).extractLsb' 0 2 = status.extractLsb' shift 2 := by
  rw [accelOf_eq_append]
  exact BitVec.extractLsb'_append_eq_right

/-- The field of `AZ` is the top of the status byte, so its number needs no remainder (R105). -/
theorem accelZ_toNat (b4 b5 : Byte) : (accelZ b4 b5).toNat = 4 * b4.toNat + b5.toNat / 64 := by
  have top : b5.toNat / 64 < 4 := Nat.div_lt_of_lt_mul b5.isLt
  rw [accelZ, accelOf_toNat, show 2 ^ 6 = 64 from rfl, Nat.mod_eq_of_lt top]

/-! ## The seven extractions as instructions of their own (R101 to R107, assumption 6) -/

/-- A frame selects the row of each extraction, which reads its own bytes of the frame word. -/
theorem extractions_mem_rows (F : Word48) :
    .jx (F.extractLsb' 40 8) ∈ (Encoded.report48 F).rows ∧ .jy (F.extractLsb' 32 8) ∈ (Encoded.report48 F).rows ∧
    .ax (F.extractLsb' 24 8) (F.extractLsb' 0 8) ∈ (Encoded.report48 F).rows ∧
    .ay (F.extractLsb' 16 8) (F.extractLsb' 0 8) ∈ (Encoded.report48 F).rows ∧
    .az (F.extractLsb' 8 8) (F.extractLsb' 0 8) ∈ (Encoded.report48 F).rows ∧
    .bc (F.extractLsb' 0 8) ∈ (Encoded.report48 F).rows ∧ .bz (F.extractLsb' 0 8) ∈ (Encoded.report48 F).rows := by
  simp [Encoded.rows, Frame.ofWord]

/-- Is the instruction one of the seven field extractions? -/
def isExtraction : Instr → Bool
  | .jx _ | .jy _ | .ax .. | .ay .. | .az .. | .bc _ | .bz _ => true
  | _ => false

/-- An extraction writes no flag, no byte of `FB` and no register outside the Report, and emits nothing. -/
theorem exec_extraction_frame {i : Instr} {s t : State} (hi : isExtraction i = true) (h : exec i s = .next t) :
    t.idx = s.idx ∧ SameMemory s t ∧ SameOrientation s t ∧ SameValid s t ∧ t.trace = s.trace := by
  cases i with
  | jx | jy | ax | ay | az | bc | bz => cases h; exact ⟨rfl, fun _ => rfl, ⟨rfl, rfl, rfl, rfl⟩, ⟨rfl, rfl⟩, rfl⟩
  | _ => cases hi

/-- Settles O18: each joystick extraction is the write of its byte. -/
theorem joystickExtractions : Obligations.JoystickExtractions := by
  refine ⟨fun F => ?_, fun b s =>
    ⟨⟨_, rfl, rfl, rfl, rfl, rfl, rfl, rfl, rfl, exec_extraction_frame (i := .jx b) rfl rfl⟩,
      ⟨_, rfl, rfl, rfl, rfl, rfl, rfl, rfl, rfl, exec_extraction_frame (i := .jy b) rfl rfl⟩⟩⟩
  obtain ⟨hjx, hjy, -⟩ := extractions_mem_rows F
  exact ⟨hjx, hjy⟩

/-- Settles O19: the value is `accelOf` with shift 2. -/
theorem accelerationXExtraction : Obligations.AccelerationXExtraction := by
  refine ⟨fun F => ?_, fun b2 b5 s => ⟨_, accelX b2 b5, rfl, rfl, accelOf_toNat 2 b2 b5, accelOf_high 2 b2 b5,
    accelOf_low 2 b2 b5, rfl, rfl, rfl, rfl, rfl, rfl, exec_extraction_frame (i := .ax b2 b5) rfl rfl⟩⟩
  obtain ⟨-, -, hax, -⟩ := extractions_mem_rows F
  exact hax

/-- Settles O20: the value is `accelOf` with shift 4. -/
theorem accelerationYExtraction : Obligations.AccelerationYExtraction := by
  refine ⟨fun F => ?_, fun b3 b5 s => ⟨_, accelY b3 b5, rfl, rfl, accelOf_toNat 4 b3 b5, accelOf_high 4 b3 b5,
    accelOf_low 4 b3 b5, rfl, rfl, rfl, rfl, rfl, rfl, exec_extraction_frame (i := .ay b3 b5) rfl rfl⟩⟩
  obtain ⟨-, -, -, hay, -⟩ := extractions_mem_rows F
  exact hay

/-- Settles O21: the value is `accelOf` with shift 6, the top field of the status byte. -/
theorem accelerationZExtraction : Obligations.AccelerationZExtraction := by
  refine ⟨fun F => ?_, fun b4 b5 s => ⟨_, accelZ b4 b5, rfl, rfl, accelZ_toNat b4 b5, accelOf_high 6 b4 b5,
    accelOf_low 6 b4 b5, rfl, rfl, rfl, rfl, rfl, rfl, exec_extraction_frame (i := .az b4 b5) rfl rfl⟩⟩
  obtain ⟨-, -, -, -, haz, -⟩ := extractions_mem_rows F
  exact haz

/-- Settles O22: the logical not of a masked bit is that bit's complement. -/
theorem buttonExtractions : Obligations.ButtonExtractions := by
  refine ⟨fun F => ?_, fun b5 s =>
    ⟨⟨_, rfl, congrArg Held.holds (buttonC_eq b5), rfl, rfl, rfl, rfl, rfl, rfl,
        exec_extraction_frame (i := .bc b5) rfl rfl⟩,
      ⟨_, rfl, congrArg Held.holds (buttonZ_eq b5), rfl, rfl, rfl, rfl, rfl, rfl,
        exec_extraction_frame (i := .bz b5) rfl rfl⟩⟩⟩
  obtain ⟨-, -, -, -, -, hbc, hbz⟩ := extractions_mem_rows F
  exact ⟨hbc, hbz⟩

/-! ## `decode` is a bijection (R113) -/

/-- A status byte is its three fields above its two button bits. -/
theorem status_eq_of_fields {a b : Byte} (hx : a.extractLsb' 2 2 = b.extractLsb' 2 2)
    (hy : a.extractLsb' 4 2 = b.extractLsb' 4 2) (hz : a.extractLsb' 6 2 = b.extractLsb' 6 2)
    (hc : a.getLsbD 1 = b.getLsbD 1) (hb : a.getLsbD 0 = b.getLsbD 0) : a = b := by
  have buttons : a.extractLsb' 0 2 = b.extractLsb' 0 2 := by
    apply BitVec.eq_of_getLsbD_eq
    intro i hi
    interval_cases i
    · simpa using hb
    · simpa using hc
  have fields (v : Byte) :
      v.extractLsb' 6 2 ++ v.extractLsb' 4 2 ++ v.extractLsb' 2 2 ++ v.extractLsb' 0 2 = v := by
    simp only [BitVec.extractLsb'_append_extractLsb'_eq_extractLsb']
    exact BitVec.extractLsb'_eq_self
  rw [← fields a, ← fields b, hx, hy, hz, buttons]

/-- Two acceleration values are equal only with equal high bytes and equal fields. -/
theorem high_field_eq_of_append_eq {h k : Byte} {l m : BitVec 2} (e : h ++ l = k ++ m) : h = k ∧ l = m := by
  have high := congrArg (BitVec.extractLsb' 2 8) e
  have low := congrArg (BitVec.extractLsb' 0 2) e
  rw [BitVec.extractLsb'_append_eq_left, BitVec.extractLsb'_append_eq_left] at high
  rw [BitVec.extractLsb'_append_eq_right, BitVec.extractLsb'_append_eq_right] at low
  exact ⟨high, low⟩

/-- Two different frames never decode alike: the Report has every bit of the frame. -/
theorem decodeFrame_injective : Function.Injective decodeFrame := by
  intro f g h
  obtain ⟨f0, f1, f2, f3, f4, f5⟩ := f
  obtain ⟨g0, g1, g2, g3, g4, g5⟩ := g
  rw [decodeFrame_eq, decodeFrame_eq, Report.mk.injEq] at h
  obtain ⟨h0, h1, hax, hay, haz, hbc, hbz⟩ := h
  obtain ⟨h2, hx⟩ := high_field_eq_of_append_eq hax
  obtain ⟨h3, hy⟩ := high_field_eq_of_append_eq hay
  obtain ⟨h4, hz⟩ := high_field_eq_of_append_eq haz
  rw [Frame.mk.injEq]
  exact ⟨h0, h1, h2, h3, h4, status_eq_of_fields hx hy hz (Bool.not_inj hbc) (Bool.not_inj hbz)⟩

/-- Settles O6: a frame and the packing of its Report decode alike, so they are the same frame. -/
theorem packAndDecodeAreInverse : Obligations.PackAndDecodeAreInverse :=
  ⟨decodeFrame_pack, fun f => decodeFrame_injective (decodeFrame_pack (decodeFrame f)),
    fun _ _ h => decodeFrame_injective h⟩

/-! ## The bits of the status byte (R115, R116) -/

/-- Inverting bits of the field inverts those bits of the acceleration value. -/
theorem append_xor_field (high : Byte) (field m : BitVec 2) :
    high ++ (field ^^^ m) = (high ++ field) ^^^ m.setWidth 10 := by
  have widen : m.setWidth 10 = 0#8 ++ m := BitVec.setWidth_eq_append (by decide)
  rw [widen, BitVec.xor_append, BitVec.xor_zero]

/-- Inverting the bits `m` of the status byte inverts the bits of the fields that `m` reaches. -/
theorem decodeFrame_xor_status (f : Frame) (m : Byte) :
    decodeFrame { f with b5 := f.b5 ^^^ m } =
      { decodeFrame f with
        ax := (decodeFrame f).ax ^^^ (m.extractLsb' 2 2).setWidth 10
        ay := (decodeFrame f).ay ^^^ (m.extractLsb' 4 2).setWidth 10
        az := (decodeFrame f).az ^^^ (m.extractLsb' 6 2).setWidth 10
        bc := (decodeFrame f).bc ^^ m.getLsbD 1
        bz := (decodeFrame f).bz ^^ m.getLsbD 0 } := by
  simp only [decodeFrame_eq, BitVec.extractLsb'_xor, append_xor_field, BitVec.getLsbD_xor, Bool.not_xor]

/-- Settles O24: each field is a function of its own bits, and each of the eight masks reaches one field. -/
theorem statusBitsReachOneField : Obligations.StatusBitsReachOneField := by
  refine ⟨fun f g => ?_, fun f => ?_⟩
  · simp only [decodeFrame_eq]
    exact ⟨id, id, fun high low => by rw [high, low], fun high low => by rw [high, low],
      fun high low => by rw [high, low], congrArg _, congrArg _⟩
  · simp [decodeFrame_xor_status]

/-- The buttons are the complements of the two bits of the status byte's lowest field. -/
theorem decodeFrame_buttons (f : Frame) :
    (decodeFrame f).bc = !(f.b5.extractLsb' 0 2).getLsbD 1 ∧
      (decodeFrame f).bz = !(f.b5.extractLsb' 0 2).getLsbD 0 := by
  simp [decodeFrame_eq]

/-- Settles O25: the four values of the lowest field. -/
theorem buttonsAreIndependent : Obligations.ButtonsAreIndependent := by
  intro f
  obtain ⟨hbc, hbz⟩ := decodeFrame_buttons f
  rw [hbc, hbz]
  generalize f.b5.extractLsb' 0 2 = buttons
  revert buttons
  decide

end Sys2Proof

/-! Proofs of the statements of spec/42_tilt.md: the exact sum of squares, `EST` and its two parts, the degenerate
denominators, the named properties of the angle arithmetic, and the reference numerics. -/

namespace Sys2Proof

open Machine

/-! ## The helper `tilt` and the sum under the root (R124 to R126, R136) -/

/-- The zero test is on the exact sum (R126). -/
theorem degenerate_iff (a b : Int) : degenerate a b = true ↔ a * a + b * b = 0 := by
  simp [degenerate, sumSquares]

theorem tiltWith_of_sum_eq_zero {f : Int → Int → Word32} {n a b : Int} (h : a * a + b * b = 0) :
    tiltWith f n a b = (Config.qnan, true) :=
  if_pos ((degenerate_iff a b).2 h)

theorem tiltWith_of_sum_ne_zero {f : Int → Int → Word32} {n a b : Int} (h : a * a + b * b ≠ 0) :
    tiltWith f n a b = (f n (a * a + b * b), false) :=
  if_neg (mt (degenerate_iff a b).1 h)

/-- The flag depends on the root terms only, not on the numerator (R126). -/
theorem tiltWith_snd (f : Int → Int → Word32) (n a b : Int) : (tiltWith f n a b).2 = degenerate a b := by
  unfold tiltWith
  split <;> simp [*]

/-- A valid angle has a sum under its root that is not zero. -/
theorem sum_ne_zero_of_valid {f : Int → Int → Word32} {n a b : Int} (h : (tiltWith f n a b).2 = false) :
    a * a + b * b ≠ 0 := by
  rw [tiltWith_snd, Bool.eq_false_iff] at h
  exact mt (degenerate_iff a b).2 h

theorem sum_pos_of_ne_zero {a b : Int} (h : a * a + b * b ≠ 0) : 0 < a * a + b * b :=
  (add_nonneg (mul_self_nonneg a) (mul_self_nonneg b)).lt_of_ne' h

/-- Settles O26: the two branches of `tilt`. -/
theorem tiltHelper : Obligations.TiltHelper :=
  fun _ _ _ => ⟨tiltWith_of_sum_eq_zero, tiltWith_of_sum_ne_zero⟩

/-- `tilt` reads its root terms through their sum only (R136). -/
theorem tilt_eq_of_sum_eq {n a b c d : Int} (h : a * a + b * b = c * c + d * d) : tilt n a b = tilt n c d := by
  unfold tilt tiltWith degenerate sumSquares
  rw [h]

/-- Settles O36: exchanging or negating root terms keeps their sum. -/
theorem anglesDependOnTheSumOnly : Obligations.AnglesDependOnTheSumOnly := fun _ _ _ =>
  ⟨tilt_eq_of_sum_eq (by ring), tilt_eq_of_sum_eq (by ring), tilt_eq_of_sum_eq (by ring),
    fun _ _ => tilt_eq_of_sum_eq⟩

/-! ## Acceleration values under the root (R125, R128) -/

theorem accel_sq_le (a : Accel) : a.toNat * a.toNat ≤ 1046529 :=
  Nat.mul_le_mul (Nat.le_of_lt_succ a.isLt) (Nat.le_of_lt_succ a.isLt)

/-- The largest sum, from `1023` twice. -/
theorem accel_sum_le (a b : Accel) : (a.toNat : Int) * a.toNat + b.toNat * b.toNat ≤ 2093058 := by
  have ha := accel_sq_le a
  have hb := accel_sq_le b
  exact_mod_cast Nat.add_le_add ha hb

theorem accel_sum_eq_zero_iff (a b : Accel) :
    (a.toNat : Int) * a.toNat + b.toNat * b.toNat = 0 ↔ a = 0 ∧ b = 0 := by
  rw [mul_self_add_mul_self_eq_zero, Int.natCast_eq_zero, Int.natCast_eq_zero, ← BitVec.toNat_inj,
    ← BitVec.toNat_inj]
  rfl

/-- Settles O27: the sum has at most 24 bits, so `exists_pattern` has it exactly. -/
theorem sumOfSquaresIsExact : Obligations.SumOfSquaresIsExact := by
  intro a b
  have ha := accel_sq_le a
  have hb := accel_sq_le b
  have hsum := accel_sum_le a b
  obtain ⟨w, hfin, -, hval, -⟩ := exists_pattern (a.toNat * a.toNat + b.toNat * b.toNat) 0 (by omega) (by norm_num)
  refine ⟨by exact_mod_cast ha, rfl, ?_, hsum, hsum.trans_lt (by norm_num), accel_sum_eq_zero_iff a b, w, hfin, ?_⟩
  · unfold sumSquares
    positivity
  · rw [hval]
    simp [sumSquares]

/-! ## The named properties of the limited arithmetic (R130 to R134) -/

theorem limitAngle_zero (raw : Int → Int → Word32) : NumericsZero (limitAngle raw) := fun _ _ => rfl

theorem limitAngle_range (raw : Int → Int → Word32) : NumericsRange (limitAngle raw) :=
  fun n q _ => (inRange_iff _).1 (limitAngle_inRange raw n q)

/-- The two signs of a numerator share one raw pattern. -/
theorem limitAngle_odd (raw : Int → Int → Word32) : NumericsOdd (limitAngle raw) := by
  intro n q hn _
  unfold limitAngle
  rcases lt_or_gt_of_ne hn with hneg | hpos
  · simp [hn, hneg, hneg.not_gt]
  · simp [hn, hpos, hpos.not_gt]

/-- The limit leaves a pattern in range of an arithmetic with ZERO and ODD as it is. -/
theorem limitAngle_eq_of_inRange {f : Int → Int → Word32} {n q : Int} (zero : NumericsZero f) (odd : NumericsOdd f)
    (hq : 0 < q) (h : inRange (f n q) = true) : limitAngle f n q = f n q := by
  unfold limitAngle
  split_ifs with hn hpos
  · rw [hn, zero q hq]
  · exact clampRange_of_inRange h
  · rw [odd n q hn hq, clampRange_of_inRange (by rwa [inRange_flipSign]), flipSign_flipSign]

/-- Settles O34: the limit gives the three properties and is the identity where they hold. -/
theorem everyAdmissibleArithmeticIsReached : Obligations.EveryAdmissibleArithmeticIsReached :=
  ⟨fun raw => ⟨limitAngle_zero raw, limitAngle_range raw, limitAngle_odd raw⟩,
    fun _ zero range odd n q hq => limitAngle_eq_of_inRange zero odd hq ((inRange_iff _).2 (range n q hq))⟩

/-- Settles O33: the properties of the limit, and of the two results of `tilt` only `QNAN` is a NaN. -/
theorem angleHasItsNamedProperties : Obligations.AngleHasItsNamedProperties := by
  refine ⟨limitAngle_zero _, limitAngle_range _, limitAngle_odd _, fun n a b => ?_⟩
  by_cases h : a * a + b * b = 0
  · rw [tilt, tiltWith_of_sum_eq_zero h]
    exact qnan_isNaN
  · obtain ⟨hfin, -, -⟩ := (inRange_iff _).1 (limitAngle_inRange Config.rawAngle n (a * a + b * b))
    rw [tilt, tiltWith_of_sum_ne_zero h]
    exact isNaN_of_finite hfin

/-- Negating a numerator that is not zero inverts the sign of a valid angle (R134). -/
theorem tilt_neg {n a b : Int} (hn : n ≠ 0) (hvalid : (tilt n a b).2 = false) :
    (tilt (-n) a b).1 = flipSign (tilt n a b).1 := by
  have h := sum_ne_zero_of_valid hvalid
  unfold tilt
  rw [tiltWith_of_sum_ne_zero h, tiltWith_of_sum_ne_zero h]
  exact limitAngle_odd _ n _ hn (sum_pos_of_ne_zero h)

/-- Settles O35: an axis is the numerator of one angle, where ODD applies, and a square in the other. -/
theorem estimateIsAntisymmetric : Obligations.EstimateIsAntisymmetric := by
  have flag (n a b : Int) : (tilt (-n) a b).2 = (tilt n a b).2 := by
    unfold tilt
    rw [tiltWith_snd, tiltWith_snd]
  have negated {n a b : Int} (hn : n ≠ 0) (hvalid : (tilt n a b).2 = false) :
      (tilt (-n) a b).1 = (tilt n a b).1 ^^^ 0x80000000#32 ∧ value (tilt (-n) a b).1 = -value (tilt n a b).1 := by
    rw [tilt_neg hn hvalid]
    exact ⟨rfl, value_flipSign _⟩
  refine ⟨limitAngle_odd _, fun x y z => ⟨tilt_eq_of_sum_eq (by ring), flag x y z, negated,
    tilt_eq_of_sum_eq (by ring), flag y x z, negated, ?_⟩⟩
  exact Prod.ext (tilt_eq_of_sum_eq (by ring)) (tilt_eq_of_sum_eq (by ring))

/-- Settles O43: a zero numerator over a sum that is not zero, and the zero sum. -/
theorem sourceEstimatorExamples : Obligations.SourceEstimatorExamples := by
  have valid : tilt 0 0 512 = (0#32, false) := tiltWith_of_sum_ne_zero (by norm_num)
  have invalid : tilt 0 0 0 = (0x7FC00000#32, true) := tiltWith_of_sum_eq_zero (by norm_num)
  exact ⟨Prod.ext valid valid, Prod.ext invalid invalid⟩

/-! ## The angle of acceleration values (R126, R127) -/

section
variable (n : Accel) {a b : Accel}

/-- An angle is invalid exactly when both terms under its root are zero. -/
theorem tiltAccel_snd : (tiltAccel n a b).2 = decide (a = 0 ∧ b = 0) := by
  rw [tiltAccel, tilt, tiltWith_snd, Bool.eq_iff_iff, degenerate_iff, accel_sum_eq_zero_iff, decide_eq_true_iff]

theorem tiltAccel_of_zeros (h : a = 0 ∧ b = 0) : tiltAccel n a b = (0x7FC00000#32, true) :=
  tiltWith_of_sum_eq_zero ((accel_sum_eq_zero_iff a b).2 h)

theorem tiltAccel_of_not_zeros (h : ¬(a = 0 ∧ b = 0)) :
    tiltAccel n a b = (angle n.toNat (a.toNat * a.toNat + b.toNat * b.toNat), false) :=
  tiltWith_of_sum_ne_zero (mt (accel_sum_eq_zero_iff a b).1 h)

theorem tiltAccel_inRange (h : ¬(a = 0 ∧ b = 0)) : inRange (tiltAccel n a b).1 = true := by
  rw [tiltAccel_of_not_zeros n h]
  exact limitAngle_inRange _ _ _

theorem tiltAccel_zero_numerator (h : ¬(a = 0 ∧ b = 0)) : (tiltAccel 0 a b).1 = 0#32 := by
  rw [tiltAccel_of_not_zeros 0 h]
  rfl

end

/-! ## `EST` and its two parts (R121 to R123) -/

/-- Settles O29: `ROLL` writes what `tilt` gives, by its two cases. -/
theorem rollResult : Obligations.RollResult := by
  intro s x y z hx hy hz
  refine ⟨s.writeRoll, rfl, fun h => ?_, fun h => ?_, rfl, rfl, ⟨rfl, rfl, rfl, rfl, rfl, rfl, rfl⟩, ⟨rfl, rfl⟩, rfl,
    fun _ => rfl, rfl⟩
  · simp [hx, hy, hz, tiltAccel_of_zeros y ((accel_sum_eq_zero_iff x z).1 h)]
  · simp [hx, hy, hz, tiltAccel_of_not_zeros y (mt (accel_sum_eq_zero_iff x z).2 h)]

/-- Settles O30: `PITCH` writes what `tilt` gives, by its two cases. -/
theorem pitchResult : Obligations.PitchResult := by
  intro s x y z hx hy hz
  refine ⟨s.writePitch, rfl, fun h => ?_, fun h => ?_, rfl, rfl, ⟨rfl, rfl, rfl, rfl, rfl, rfl, rfl⟩, ⟨rfl, rfl⟩, rfl,
    fun _ => rfl, rfl⟩
  · simp [hx, hy, hz, tiltAccel_of_zeros x ((accel_sum_eq_zero_iff y z).1 h)]
  · simp [hx, hy, hz, tiltAccel_of_not_zeros x (mt (accel_sum_eq_zero_iff y z).2 h)]

/-- In a word that asks for `EST` and not for `RESET`, the `EST` comes last (spec/30_encoding.md R79). -/
theorem ops_getLast_of_est {w : Word12} (hrst : w.getLsbD 11 = false) (hest : w.getLsbD 8 = true) :
    (decodePort w).ops.getLast? = some .est := by
  unfold decodePort
  rw [hrst, hest]
  cases w.getLsbD 10 <;> cases w.getLsbD 9 <;> rfl

section
variable {s t : State} {x y z : Accel} (hr : s.rptValid = true) (hx : s.ax = .holds x) (hy : s.ay = .holds y)
  (hz : s.az = .holds z)
include hr hx hy hz

/-- A computing `EST` leaves the estimate of the acceleration values and marks it current. -/
theorem exec_est_holdsEstimate (h : exec .est s = .next t) : HoldsEstimate t x y z ∧ t.oriValid = true := by
  rw [exec_est_of_report hr] at h
  cases h
  exact ⟨writeRoll_writePitch_holds hx hy hz, rfl⟩

/-- After a computing `EST` each flag says whether its two root terms are zero (R126). -/
theorem exec_est_invalid_flags (h : exec .est s = .next t) :
    t.rollInv = .holds (decide (x = 0 ∧ z = 0)) ∧ t.pitchInv = .holds (decide (y = 0 ∧ z = 0)) := by
  obtain ⟨⟨-, hroll, -, hpitch⟩, -⟩ := exec_est_holdsEstimate hr hx hy hz h
  rw [hroll, hpitch, tiltAccel_snd, tiltAccel_snd]
  exact ⟨rfl, rfl⟩

/-- An `EST` on its own estimate writes the same values and only emits the event again. -/
theorem exec_est_of_estimate (hori : s.oriValid = true) (hest : HoldsEstimate s x y z) :
    exec .est s = .next { s with trace := s.trace ++ [.orientation s.roll s.rollInv s.pitch s.pitchInv] } := by
  obtain ⟨roll, rollInv, pitch, pitchInv⟩ := hest
  have same : s.writeRoll.writePitch.newOrientationFlag = s := by
    cases s
    simp_all [State.writeRoll, State.writePitch, State.newOrientationFlag]
  rw [exec_est_of_report hr, same]
  rfl

end

/-- Settles O28: the word, the two cases of the Report, the frame, and `EST` on its own estimate. -/
theorem estResult : Obligations.EstResult := by
  refine ⟨rfl, fun _ => ops_getLast_of_est, fun _ => exec_est_of_no_report, fun s x y z hr hx hy hz => ?_⟩
  obtain ⟨t, ht⟩ := exec_completes .est s
  obtain ⟨hest, hori⟩ := exec_est_holdsEstimate hr hx hy hz ht
  obtain ⟨hidx, hmem, hrep, hrpt, -⟩ := exec_est_frame ht
  have ⟨_, _, ax, ay, az, _, _⟩ := hrep
  exact ⟨t, ht, hest, hori, hrpt.trans hr, exec_est_of_report_trace hr ht, hidx, hmem, hrep,
    exec_est_of_estimate (hrpt.trans hr) (ax.trans hx) (ay.trans hy) (az.trans hz) hori hest⟩

/-- The table of R127: the two tests for zero root terms in each of its rows. -/
theorem root_tests_of_rows (x y z : Accel) :
    (z ≠ 0 ∨ (x ≠ 0 ∧ y ≠ 0) → decide (x = 0 ∧ z = 0) = false ∧ decide (y = 0 ∧ z = 0) = false) ∧
    (z = 0 ∧ x = 0 ∧ y ≠ 0 → decide (x = 0 ∧ z = 0) = true ∧ decide (y = 0 ∧ z = 0) = false) ∧
    (z = 0 ∧ y = 0 ∧ x ≠ 0 → decide (x = 0 ∧ z = 0) = false ∧ decide (y = 0 ∧ z = 0) = true) ∧
    (x = 0 ∧ y = 0 ∧ z = 0 → decide (x = 0 ∧ z = 0) = true ∧ decide (y = 0 ∧ z = 0) = true) := by
  simp only [decide_eq_true_iff, decide_eq_false_iff_not]
  tauto

/-- Settles O32: each angle by its own root terms; the four rows are the values of the two flags. -/
theorem degenerateDenominators : Obligations.DegenerateDenominators := by
  intro s x y z hr hx hy hz
  obtain ⟨t, ht⟩ := exec_completes .est s
  obtain ⟨⟨hroll, -, hpitch, -⟩, hori⟩ := exec_est_holdsEstimate hr hx hy hz ht
  obtain ⟨hrollInv, hpitchInv⟩ := exec_est_invalid_flags hr hx hy hz ht
  obtain ⟨valid, rollOnly, pitchOnly, both⟩ := root_tests_of_rows x y z
  refine ⟨t, _, _, ht, hroll, hpitch, hori, hrollInv, hpitchInv, fun h => by rw [tiltAccel_of_zeros y h],
    tiltAccel_inRange y, fun h => by rw [tiltAccel_of_zeros x h], tiltAccel_inRange x, ?_⟩
  rw [hrollInv, hpitchInv, Held.holds.injEq, Held.holds.injEq, Held.holds.injEq, Held.holds.injEq]
  refine ⟨valid, fun h => ?_, fun h => ?_, both⟩
  · obtain ⟨roll, pitch⟩ := rollOnly h
    obtain ⟨-, rfl, -⟩ := h
    exact ⟨roll, pitch, tiltAccel_zero_numerator (of_decide_eq_false pitch)⟩
  · obtain ⟨roll, pitch⟩ := pitchOnly h
    obtain ⟨-, rfl, -⟩ := h
    exact ⟨roll, pitch, tiltAccel_zero_numerator (of_decide_eq_false roll)⟩

/-- The code of a current Orientation is its two flags, if one of them is set (spec/60_exceptions.md R151). -/
theorem invalidOrientation_of_flags {s : State} {r p : Bool} (hori : s.oriValid = true) (hr : s.rollInv = .holds r)
    (hp : s.pitchInv = .holds p) : s.invalidOrientation = if r || p then some (r, p) else none := by
  simp only [State.invalidOrientation, hori, hr, hp]

/-- Settles O58: the code is made of the two flags, row by row. -/
theorem invalidOrientationCode : Obligations.InvalidOrientationCode := by
  intro s x y z hr hx hy hz
  obtain ⟨t, ht⟩ := exec_completes .est s
  obtain ⟨-, hori⟩ := exec_est_holdsEstimate hr hx hy hz ht
  obtain ⟨hrollInv, hpitchInv⟩ := exec_est_invalid_flags hr hx hy hz ht
  have code {r p : Bool} (h : decide (x = 0 ∧ z = 0) = r ∧ decide (y = 0 ∧ z = 0) = p) :
      t.invalidOrientation = if r || p then some (r, p) else none :=
    invalidOrientation_of_flags hori (hrollInv.trans (congrArg _ h.1)) (hpitchInv.trans (congrArg _ h.2))
  obtain ⟨valid, rollOnly, pitchOnly, both⟩ := root_tests_of_rows x y z
  exact ⟨t, ht, fun h => code (valid h), fun h => code (rollOnly h), fun h => code (pitchOnly h),
    fun h => code (both h)⟩

/-! ## Accuracy (R135, R137) -/

/-- An angle and its ideal are both within 90 degrees of zero. -/
theorem abs_angle_sub_theta_le (n q : Int) : |(value (angle n q) : ℝ) - theta n q| ≤ 180 := by
  obtain ⟨-, hlo, hhi⟩ := (inRange_iff _).1 (limitAngle_inRange Config.rawAngle n q)
  have hlo' : (-90 : ℝ) < value (angle n q) := by exact_mod_cast hlo
  have hhi' : (value (angle n q) : ℝ) < 90 := by exact_mod_cast hhi
  obtain ⟨hlt, hgt⟩ := abs_lt.1 (abs_theta_lt n q)
  rw [abs_le]
  constructor <;> linarith

/-- The least bound is kept: RANGE bounds the errors whose supremum it is. -/
theorem angle_acc_tiltEps : NumericsAcc tiltEps angle := by
  refine fun n q hq => le_csSup ⟨180, ?_⟩ ⟨n, q, hq, rfl⟩
  rintro _ ⟨m, p, -, rfl⟩
  exact abs_angle_sub_theta_le m p

/-- Settles O37: a supremum of errors, one of them that of `angle(0, 1)`, is their least upper bound. -/
theorem accuracyBoundExists : Obligations.AccuracyBoundExists := by
  refine ⟨(abs_nonneg _).trans (angle_acc_tiltEps 0 1 one_pos), angle_acc_tiltEps, fun eps hacc => ?_⟩
  refine csSup_le ⟨_, 0, 1, one_pos, rfl⟩ ?_
  rintro _ ⟨n, q, hq, rfl⟩
  exact hacc n q hq

/-- Settles O41: the ideal angle of a numerator that is not zero is at least `theta 1 2093058`, so no error below that
takes the angle to zero or beyond. -/
theorem validAnglesAreNotNegative : Obligations.ValidAnglesAreNotNegative := by
  intro f eps zero range acc heps n a b hvalid
  have hsum := sum_ne_zero_of_valid hvalid
  have hq := sum_pos_of_ne_zero hsum
  rw [tiltWith_of_sum_ne_zero hsum]
  obtain ⟨hfin, -, hlt⟩ := range n.toNat _ hq
  refine ⟨hfin, hlt, ?_, fun hn => ?_⟩
  · rintro rfl
    exact zero _ hq
  · have hn1 : (1 : Int) ≤ n.toNat := by
      have : n.toNat ≠ 0 := fun h => hn (BitVec.eq_of_toNat_eq h)
      omega
    have hideal := theta_le_theta zero_le_one hn1 hq (accel_sum_le a b)
    obtain ⟨herr, -⟩ := abs_le.1 (acc n.toNat _ hq)
    have hpos : 0 < value (f n.toNat (a.toNat * a.toNat + b.toNat * b.toNat)) := by
      have : (0 : ℝ) < value (f n.toNat (a.toNat * a.toNat + b.toNat * b.toNat)) := by linarith
      exact_mod_cast this
    exact ⟨hpos, Bool.eq_false_iff.2 fun hsign => (value_nonpos hsign).not_gt hpos⟩

end Sys2Proof

/-! Proofs of the statements of spec/42_tilt.md R138: the nearest binary32 number is within `2^-18` degrees of an ideal
angle and is one pattern, and the reference numerics it makes up are an arithmetic of the block. -/

namespace Sys2Proof

open Machine

/-! ## Half a unit in the last place (R135) -/

/-- A number below 90 that is not negative is within `2^-18` of a multiple of `2^-17`, which has a pattern. -/
theorem exists_pattern_near_of_nonneg {x : ℝ} (h0 : 0 ≤ x) (h90 : x < 90) :
    ∃ v : Word32, isFinite v = true ∧ |(value v : ℝ) - x| ≤ 1 / 2 ^ 18 := by
  have hle := Nat.floor_le (a := x * 2 ^ 17 + 1 / 2) (by positivity)
  have hlt := Nat.lt_floor_add_one (x * 2 ^ 17 + 1 / 2)
  generalize ⌊x * 2 ^ 17 + 1 / 2⌋₊ = k at hle hlt
  have hk : k < 2 ^ 24 := by
    have : (k : ℝ) < ((2 ^ 24 : Nat) : ℝ) := by push_cast; linarith
    exact_mod_cast this
  obtain ⟨v, hv, -, hval, -⟩ := exists_pattern k 17 hk (by norm_num)
  refine ⟨v, hv, ?_⟩
  rw [hval, abs_le]
  push_cast
  constructor <;> linarith

/-- The distance of the pattern with the sign inverted. -/
theorem abs_value_flipSign_sub (w : Word32) (x : ℝ) :
    |((value (flipSign w) : Rat) : ℝ) - x| = |(value w : ℝ) - -x| := by
  rw [value_flipSign, ← abs_neg]
  push_cast
  ring_nf

theorem exists_pattern_near {x : ℝ} (h : |x| < 90) :
    ∃ v : Word32, isFinite v = true ∧ |(value v : ℝ) - x| ≤ 1 / 2 ^ 18 := by
  obtain ⟨hlo, hhi⟩ := abs_lt.1 h
  rcases le_total 0 x with h0 | h0
  · exact exists_pattern_near_of_nonneg h0 hhi
  · obtain ⟨v, hv, hnear⟩ := exists_pattern_near_of_nonneg (x := -x) (by linarith) (by linarith)
    exact ⟨flipSign v, by rwa [isFinite_flipSign], by rwa [abs_value_flipSign_sub]⟩

/-- Settles O38: some pattern is within the bound, and a nearest one is no farther. -/
theorem nearestPatternIsWithinTheBound : Obligations.NearestPatternIsWithinTheBound := by
  intro n q w _ hw
  obtain ⟨v, hv, hnear⟩ := exists_pattern_near (abs_theta_lt n q)
  exact (hw.2 v hv).1.trans hnear

/-! ## There is a nearest pattern, and it is one only (R138) -/

/-- For a number that is not negative, the pattern with the sign cleared is no farther. -/
theorem abs_sub_flipSign_le {v : Word32} {x : ℝ} (hx : 0 ≤ x) (hv : signBit v = true) :
    |((value (flipSign v) : Rat) : ℝ) - x| ≤ |(value v : ℝ) - x| := by
  have hneg : (value v : ℝ) ≤ 0 := by exact_mod_cast value_nonpos hv
  rw [abs_value_flipSign_sub, abs_of_nonpos (by linarith : (value v : ℝ) - x ≤ 0), abs_le]
  constructor <;> linarith

/-- Among the finite positive patterns one is least in distance to `x` and then in the parity of its fraction. -/
theorem exists_least_positive_pattern (x : ℝ) : ∃ w : Word32, isFinite w = true ∧ signBit w = false ∧
    ∀ v : Word32, isFinite v = true → signBit v = false → |(value w : ℝ) - x| < |(value v : ℝ) - x| ∨
      |(value w : ℝ) - x| = |(value v : ℝ) - x| ∧ fracField w % 2 ≤ fracField v % 2 := by
  obtain ⟨w, ⟨hfin, hsign⟩, hmin⟩ := Set.exists_min_image {w : Word32 | isFinite w = true ∧ signBit w = false}
    (fun w => toLex (|(value w : ℝ) - x|, fracField w % 2)) (Set.toFinite _) ⟨0#32, by decide, by decide⟩
  exact ⟨w, hfin, hsign, fun v hv hvs => Prod.Lex.toLex_le_toLex.1 (hmin v ⟨hv, hvs⟩)⟩

/-- Of two positive patterns of different numbers, equally near to `x` with none nearer, just one has an even
fraction: they are neighbours. -/
theorem fracField_parity_ne_of_tie {v w : Word32} {x : ℝ} (hvf : isFinite v = true) (hwf : isFinite w = true)
    (hv : signBit v = false) (hw : signBit w = false)
    (hmin : ∀ u, isFinite u = true → |(value w : ℝ) - x| ≤ |(value u : ℝ) - x|)
    (htie : |(value w : ℝ) - x| = |(value v : ℝ) - x|) (hne : value w ≠ value v) :
    fracField w % 2 ≠ fracField v % 2 := by
  rw [fracField_mod_two, fracField_mod_two]
  rcases lt_or_gt_of_ne hne with hlt | hgt
  · have := toNat_succ_of_tie hw hv hvf hmin htie.symm hlt
    omega
  · have := toNat_succ_of_tie hv hw hwf (htie ▸ hmin) htie hgt
    omega

/-- A negative pattern is as near as the nearest to a number that is not negative only if it is a zero. -/
theorem value_eq_zero_of_negative_tie {v w : Word32} {x : ℝ} (hv : isFinite v = true) (hvs : signBit v = true)
    (hx : 0 ≤ x) (hmin : ∀ u, isFinite u = true → |(value w : ℝ) - x| ≤ |(value u : ℝ) - x|)
    (htie : |(value w : ℝ) - x| = |(value v : ℝ) - x|) : value v = 0 := by
  have hflip := le_antisymm (abs_sub_flipSign_le hx hvs) (htie ▸ hmin (flipSign v) (by rwa [isFinite_flipSign]))
  rw [value_flipSign, Rat.cast_neg] at hflip
  suffices (value v : ℝ) = 0 by exact_mod_cast this
  obtain e | e := abs_eq_abs.1 hflip
  · linarith
  · have hx0 : x = 0 := by linarith
    have hzero := htie ▸ hmin 0#32 (by decide)
    rw [value_zero, hx0] at hzero
    simpa using hzero

/-- A number that is not negative has a nearest pattern with the sign positive. -/
theorem exists_isNearest {x : ℝ} (hx : 0 ≤ x) : ∃ w : Word32, IsNearest w x ∧ signBit w = false := by
  obtain ⟨w, hfin, hsign, hleast⟩ := exists_least_positive_pattern x
  have hmin (v : Word32) (hv : isFinite v = true) : |(value w : ℝ) - x| ≤ |(value v : ℝ) - x| := by
    have hpos {u : Word32} (hu : isFinite u = true) (hus : signBit u = false) :
        |(value w : ℝ) - x| ≤ |(value u : ℝ) - x| :=
      (hleast u hu hus).elim le_of_lt fun h => h.1.le
    cases hvs : signBit v
    · exact hpos hv hvs
    · exact (hpos (u := flipSign v) (by simpa using hv) (by simp [hvs])).trans (abs_sub_flipSign_le hx hvs)
  have hties {v : Word32} (hv : isFinite v = true) (hvs : signBit v = false)
      (htie : |(value w : ℝ) - x| = |(value v : ℝ) - x|) : value w = value v ∨ fracField w % 2 = 0 := by
    by_cases hne : value w = value v
    · exact .inl hne
    · have hparity := fracField_parity_ne_of_tie hv hfin hvs hsign hmin htie hne
      obtain hlt | ⟨-, hle⟩ := hleast v hv hvs
      · exact absurd htie hlt.ne
      · right; omega
  refine ⟨w, ⟨hfin, fun v hv => ⟨hmin v hv, fun htie => ?_⟩⟩, hsign⟩
  cases hvs : signBit v
  · exact hties hv hvs htie
  · have hzero := value_eq_zero_of_negative_tie hv hvs hx hmin htie
    have hflip : value (flipSign v) = value v := by simp [hzero]
    rw [← hflip] at htie ⊢
    exact hties (by simpa using hv) (by simp [hvs]) htie

/-- Of the patterns of one sign at most one is nearest. -/
theorem isNearest_unique {v w : Word32} {x : ℝ} (hv : IsNearest v x) (hw : IsNearest w x) (hvs : signBit v = false)
    (hws : signBit w = false) : v = w := by
  have hmin := fun u hu => (hw.2 u hu).1
  have htie := le_antisymm (hmin v hv.1) (hv.2 w hw.1).1
  by_contra hvw
  have hne : value w ≠ value v := fun h => hvw (eq_of_value_eq hvs hws h.symm)
  have hparity := fracField_parity_ne_of_tie hv.1 hw.1 hvs hws hmin htie hne
  have hweven := ((hw.2 v hv.1).2 htie).resolve_left hne
  have hveven := ((hv.2 w hw.1).2 htie.symm).resolve_left hne.symm
  omega

/-- For a numerator that is not negative there is one reference angle. -/
theorem existsUnique_isReferenceAngle_of_nonneg {n : Int} (q : Int) (hn : 0 ≤ n) : ∃! w, IsReferenceAngle n q w := by
  obtain ⟨w, hw, hsign⟩ := exists_isNearest (theta_nonneg n q hn)
  have positive : decide (n < 0) = false := decide_eq_false hn.not_gt
  exact ⟨w, ⟨hw, hsign.trans positive.symm⟩, fun v ⟨hv, hvs⟩ => isNearest_unique hv hw (hvs.trans positive) hsign⟩

/-- A negative numerator has the reference angle of the opposite one with the sign inverted. -/
theorem existsUnique_isReferenceAngle (n q : Int) : ∃! w, IsReferenceAngle n q w := by
  rcases le_or_gt 0 n with hn | hn
  · exact existsUnique_isReferenceAngle_of_nonneg q hn
  · obtain ⟨w, hw, hunique⟩ := existsUnique_isReferenceAngle_of_nonneg q (n := -n) (by omega)
    have flipped : IsReferenceAngle n q (flipSign w) := neg_neg n ▸ isReferenceAngle_neg (by omega) hw
    refine ⟨flipSign w, flipped, fun v hv => ?_⟩
    rw [← hunique _ (isReferenceAngle_neg hn.ne hv), flipSign_flipSign]

theorem angleRef_isReferenceAngle (n q : Int) : IsReferenceAngle n q (angleRef n q) :=
  Classical.epsilon_spec (existsUnique_isReferenceAngle n q).exists

theorem eq_angleRef {n q : Int} {w : Word32} (h : IsReferenceAngle n q w) : w = angleRef n q :=
  (existsUnique_isReferenceAngle n q).unique h (angleRef_isReferenceAngle n q)

/-- Settles O39: the reference angle is there and is one only. -/
theorem referenceAnglesAreDetermined : Obligations.ReferenceAnglesAreDetermined :=
  fun n q _ => ⟨angleRef_isReferenceAngle n q, fun _ => eq_angleRef⟩

/-! ## The reference numerics are an arithmetic of the block (R138) -/

/-- A pattern that stands for the number itself is nearest to it. -/
theorem isNearest_of_value_eq {w : Word32} {x : ℝ} (hw : isFinite w = true) (h : (value w : ℝ) = x) :
    IsNearest w x := by
  refine ⟨hw, fun v _ => ?_⟩
  rw [h, sub_self, abs_zero]
  refine ⟨abs_nonneg _, fun htie => .inl ?_⟩
  have : (value w : ℝ) = value v := by linarith [abs_eq_zero.1 htie.symm]
  exact_mod_cast this

theorem angleRef_zero : NumericsZero angleRef := fun q _ =>
  (eq_angleRef ⟨isNearest_of_value_eq (by decide) (by rw [theta_zero, value_zero, Rat.cast_zero]), by decide⟩).symm

theorem angleRef_odd : NumericsOdd angleRef := fun n q hn _ =>
  (eq_angleRef (isReferenceAngle_neg hn (angleRef_isReferenceAngle n q))).symm

theorem angleRef_acc : NumericsAcc (1 / 2 ^ 18) angleRef := fun n q hq =>
  nearestPatternIsWithinTheBound n q _ hq (angleRef_isReferenceAngle n q).1

/-- Rounding moves an ideal angle of at most 89.944 degrees by less than what is left up to 90. -/
theorem angleRef_inRange {n q : Int} (hq : 0 < q) (h : |theta n q| ≤ 89.944) : inRange (angleRef n q) = true := by
  obtain ⟨hlo, hhi⟩ := abs_le.1 h
  obtain ⟨herrLo, herrHi⟩ := abs_le.1 (angleRef_acc n q hq)
  have lower : (-90 : ℝ) < value (angleRef n q) := by linarith
  have upper : (value (angleRef n q) : ℝ) < 90 := by linarith
  exact (inRange_iff _).2 ⟨(angleRef_isReferenceAngle n q).1.1, by exact_mod_cast lower, by exact_mod_cast upper⟩

/-- An angle of 0.056 degrees has a tangent of at most `1 / 1023`. -/
theorem tan_complement_le : Real.tan (Real.pi * (0.056 / 180)) ≤ 1023⁻¹ := by
  have hpi := Real.pi_lt_d4
  have hpos : 0 < Real.pi * (0.056 / 180) := by positivity
  have hle : Real.pi * (0.056 / 180) ≤ 0.0009774 := by linarith
  generalize Real.pi * (0.056 / 180) = y at hpos hle
  have hsin : Real.sin y ≤ 0.0009774 := (Real.sin_le hpos.le).trans hle
  have hcos : 0.999999 ≤ Real.cos y := by
    have hsq : y ^ 2 ≤ 0.0009774 ^ 2 := by gcongr
    linarith [Real.one_sub_sq_div_two_le_cos (x := y)]
  rw [Real.tan_eq_sin_div_cos, div_le_iff₀ (by linarith)]
  linarith

/-- The largest ideal angle of the block is at least 0.056 degrees short of a right angle. -/
theorem theta_largest_le : theta 1023 1 ≤ 89.944 := by
  have hpi := Real.pi_pos
  have hacute : Real.arctan (Real.tan (Real.pi * (0.056 / 180))) = Real.pi * (0.056 / 180) :=
    Real.arctan_tan (by linarith) (by linarith)
  have hcomplement : Real.arctan 1023⁻¹ = Real.pi / 2 - Real.arctan 1023 := Real.arctan_inv_of_pos (by norm_num)
  have harc : Real.arctan 1023 ≤ Real.pi / 2 - Real.pi * (0.056 / 180) := by
    linarith [Real.arctan_mono tan_complement_le]
  calc theta 1023 1 = Real.arctan 1023 * (180 / Real.pi) := by simp [theta]
    _ ≤ (Real.pi / 2 - Real.pi * (0.056 / 180)) * (180 / Real.pi) := by gcongr
    _ = 89.944 := by field_simp; norm_num

theorem abs_theta_le_of_domain {n q : Int} (hn : InReferenceDomain n) (hq : 0 < q) : |theta n q| ≤ 89.944 := by
  obtain ⟨hlo, hhi⟩ := hn
  have nonneg {m : Int} (h0 : 0 ≤ m) (hm : m ≤ 1023) : |theta m q| ≤ 89.944 := by
    rw [abs_of_nonneg (theta_nonneg m q h0)]
    exact (theta_le_theta h0 hm one_pos hq).trans theta_largest_le
  rcases le_total 0 n with h0 | h0
  · exact nonneg h0 hhi
  · rw [← abs_neg, ← theta_neg]
    exact nonneg (by omega) (by omega)

theorem theta_five_twentyFive : theta 5 25 = 45 := by
  have hroot : √((25 : Int) : ℝ) = 5 := by
    rw [Real.sqrt_eq_iff_mul_self_eq] <;> norm_num
  have hpi := Real.pi_ne_zero
  unfold theta
  rw [hroot, Int.cast_ofNat, div_self (by norm_num), Real.arctan_one]
  field_simp
  norm_num

/-- The pattern of 45 degrees: `2^5` by `1 + 13/32`. -/
theorem value_fortyFive : value 0x42340000#32 = 45 := by
  have hsign : signBit 0x42340000#32 = false := by decide
  have hexp : expField 0x42340000#32 = 132 := by decide
  have hfrac : fracField 0x42340000#32 = 3407872 := by decide
  rw [value_eq_valueOf hsign, hexp, hfrac]
  norm_num [valueOf]

theorem angleRef_five_twentyFive : angleRef 5 25 = 0x42340000#32 :=
  (eq_angleRef ⟨isNearest_of_value_eq (by decide) (by rw [value_fortyFive, theta_five_twentyFive]; norm_num),
    by decide⟩).symm

/-- Settles O40: the properties of rounding to nearest, and the limit that changes none of its patterns in range. -/
theorem referenceNumericsAreAdmissible : Obligations.ReferenceNumericsAreAdmissible := by
  refine ⟨angleRef_zero, angleRef_odd, angleRef_acc, fun _ _ => angleRef_inRange, fun _ _ => abs_theta_le_of_domain,
    fun n q hn hq => ?_, limitAngle_zero _, limitAngle_range _, limitAngle_odd _, fun f hf => ?_⟩
  · exact limitAngle_eq_of_inRange angleRef_zero angleRef_odd hq (angleRef_inRange hq (abs_theta_le_of_domain hn hq))
  · rw [tiltWith_of_sum_ne_zero (by norm_num)]
    exact Prod.ext ((hf 5 25 ⟨by norm_num, by norm_num⟩ (by norm_num)).trans angleRef_five_twentyFive) rfl

end Sys2Proof

/-! Proofs of the statements of spec/70_reset_and_hazards.md: what `RESET` leaves in every register, and that nothing
else takes a Report back. -/

namespace Sys2Proof

open Machine

/-! ## The reset block (R180) -/

/-- No address and no register of the reset block holds a value, and neither valid flag is set. -/
theorem registers_of_blockOf_eq_reset {t : State} (h : blockOf t = State.reset) :
    t.idx = 0 ∧ t.rptValid = false ∧ t.oriValid = false ∧ (∀ a, t.fb.read a = .noValue) ∧ t.jx = .noValue ∧
      t.jy = .noValue ∧ t.ax = .noValue ∧ t.ay = .noValue ∧ t.az = .noValue ∧ t.bc = .noValue ∧ t.bz = .noValue ∧
      t.roll = .noValue ∧ t.rollInv = .noValue ∧ t.pitch = .noValue ∧ t.pitchInv = .noValue := by
  obtain ⟨p, e, events, rfl⟩ := exists_of_blockOf_eq (s := State.reset) h.symm
  exact ⟨rfl, rfl, rfl, Memory.read_nil, rfl, rfl, rfl, rfl, rfl, rfl, rfl, rfl, rfl, rfl, rfl⟩

/-- `RESET` changes nothing in a reset block. -/
theorem exec_reset_of_blockOf_eq_reset {t : State} (h : blockOf t = State.reset) : exec .reset t = .next t := by
  obtain ⟨p, e, events, rfl⟩ := exists_of_blockOf_eq (s := State.reset) h.symm
  rfl

/-- `rst` overrides the other control bits (spec/30_encoding.md R79). -/
theorem ops_eq_reset_of_rst {w : Word12} (h : w.getLsbD 11 = true) : (decodePort w).ops = [.reset] := by
  rw [decodePort, h]
  rfl

/-! ## A Report, once there, stays until `RESET` (R31) -/

/-- No instruction but `RESET` clears `RPT_VALID`: a decode sets it and the rest leave it. -/
theorem exec_keeps_rptValid {i : Instr} {s t : State} (hi : i ≠ .reset) (h : exec i s = .next t)
    (hr : s.rptValid = true) : t.rptValid = true := by
  cases i with
  | reset => exact absurd rfl hi
  | push d =>
    by_cases h5 : s.idx = 5
    · obtain ⟨hrpt, -⟩ := exec_push_of_five_flags h5 h
      exact hrpt
    · obtain ⟨-, -, hrpt, -⟩ := exec_push_of_ne_five_frame h5 h
      exact hrpt.trans hr
  | est =>
    obtain ⟨-, -, -, hrpt, -⟩ := exec_est_frame h
    exact hrpt.trans hr
  | decode f => cases h; rfl
  | _ => cases h; exact hr

/-- Settles O8: `RESET` gives the reset block, whose registers and repetition follow from that alone. -/
theorem resetResult : Obligations.ResetResult := by
  refine ⟨fun s => ?_, fun _ => ops_eq_reset_of_rst, fun i s t h hr ht => ?_⟩
  · obtain ⟨t, hreset, hblock, htrace⟩ := exec_reset_block s
    obtain ⟨hidx, hrpt, hori, hfb, hjx, hjy, hax, hay, haz, hbc, hbz, hroll, hrollInv, hpitch, hpitchInv⟩ :=
      registers_of_blockOf_eq_reset hblock
    exact ⟨t, hreset, hidx, hrpt, hori, hfb, hjx, hjy, hax, hay, haz, hbc, hbz, hroll, hrollInv, hpitch, hpitchInv,
      htrace, exec_reset_of_blockOf_eq_reset hblock, hblock⟩
  · by_contra hi
    exact absurd (exec_keeps_rptValid hi h hr) (by simp [ht])

end Sys2Proof

/-! Proof of the statement of spec/30_encoding.md R78 on words written out from the PORT12 table and the vectors. -/

namespace Sys2Proof

/-! ## Written words (R78, V11, V16) -/

/-- Reading an operation word through the opcode table's numbering gives the operation that is performed first. -/
theorem decodeTableWord_port12 (w : Word12) : decodeTableWord 16 w.toNat = some (decodePort w).first :=
  (decodeTableWord_number (.port12 w)).trans (by rw [Encoded.ops, Request.ops]; split <;> rfl)

/-- Reading a frame word through the opcode table's numbering gives `DECODE` of its six bytes. -/
theorem decodeTableWord_report48 (F : Word48) : decodeTableWord 48 F.toNat = some (.decode (Frame.ofWord F)) :=
  decodeTableWord_number (.report48 F)

/-- Settles O1: each number is that of its word, and the word's own control bits, or the frame's bytes, are read off. -/
theorem writtenWordsDecode : Obligations.WrittenWordsDecode := by
  refine ⟨decodeTableWord_port12 0x800#12, decodeTableWord_port12 0x400#12, decodeTableWord_port12 0x280#12,
    decodeTableWord_port12 0x2FF#12, decodeTableWord_port12 0x100#12, decodeTableWord_port12 0x0A7#12,
    decodeTableWord_port12 0x6FF#12, decodeTableWord_port12 0xF55#12, ?_, ?_,
    decodeTableWord_report48 0x123456789AE6#48⟩
  · exact decodePort_append 0b0011#4 0x1C#8
  · exact decodePort_append 0b0101#4 0x00#8

end Sys2Proof
